-- ==== Sys2Proof/Word.lean ====
section
/-! DEFINITION. The word types of the S12CPUV2 and their plainest arithmetic: splitting a word into its bytes. -/

namespace Sys2Proof

/-- A memory byte, an accumulator, an 8-bit field (10_state.md R20, 20_memory.md R60). -/
abbrev Byte := BitVec 8

/-- A 16-bit register, address or field (10_state.md R20). -/
abbrev Word := BitVec 16

end Sys2Proof
end

