-- ==== Sys2Proof/Config.lean ====
section
/-! DEFINITION. What an implementation fixes and the spec leaves open, as constants with no body: nothing in Lean can
evaluate them, so a claim holds whatever they are. The parameters of 00_scope.md R7 that a device fixes by data (memory map,
PPAGE, interrupt sources, BDM) are the field `dev` of State instead; what a device register does is here, and in State.lean
what the devices do as a step passes. -/

namespace Sys2Proof

/-- The n-th free bit: an undefined flag (93_implementation_defined.md U1, U2). DESIGN CHOICE (log 7). -/
opaque Config.freeBit : Nat → Bool

/-- The n-th free byte: an accumulator or PPAGE after a reset (U13). DESIGN CHOICE (log 7). -/
opaque Config.freeByte : Nat → Byte

/-- The n-th free word: an indeterminate remainder or a temporary register (U8, U14). DESIGN CHOICE (log 7). -/
opaque Config.freeWord : Nat → Word

/-- X after the one IDIVS overflow, parameter IDIVS_OVF_X (92_eei_decisions.md D12, U9). DESIGN CHOICE (log 16). -/
opaque Config.idivsOverflowX : Word

/-- D after the one IDIVS overflow, parameter IDIVS_OVF_D (92_eei_decisions.md D12, U9). DESIGN CHOICE (log 16). -/
opaque Config.idivsOverflowD : Word

/-- Parameter REVW_B_AFTER_WEIGHT (U10): true when B is left unchanged by a weighted REVW, false when it receives the low
byte of the last product. DESIGN CHOICE (log 20). -/
opaque Config.revwKeepsB : Bool

/-- What a device register reads as: the devices' state and the physical byte decide it (20_memory.md R65, R70; parameter
MEM_MAP, 92_eei_decisions.md D6). DESIGN CHOICE (log 30). -/
opaque Config.deviceRead : Nat → Nat → Byte

/-- The devices' state after a read of a device register: their state before it and the physical byte decide it
(20_memory.md R65, R70). DESIGN CHOICE (log 30). -/
opaque Config.deviceAfterRead : Nat → Nat → Nat

/-- The devices' state after a write to a device register: their state before it, the physical byte and the value decide it
(20_memory.md R65, R70). DESIGN CHOICE (log 30). -/
opaque Config.deviceWrite : Nat → Nat → Byte → Nat

end Sys2Proof
end

