-- ==== Sys2Proof/Machine/Bits.lean ====
section
/-! DEFINITION. Bit-field and byte-order helpers (00_scope.md R8, R9; 20_memory.md R61). -/

namespace Sys2Proof.Machine

/-- Bits 15 to 8 of a word. -/
def hiByte (w : Word) : Byte := w.extractLsb' 8 8

/-- Bits 7 to 0 of a word. -/
def loByte (w : Word) : Byte := w.extractLsb' 0 8

/-- `h : l`, the word whose high-order byte is `h` (00_scope.md R8). -/
def word (h l : Byte) : Word := h ++ l

/-- Sign extension of a byte to a word, `sext_16` (00_scope.md R9). -/
def sext8 (v : Byte) : Word := v.signExtend 16

/-- Zero extension of a byte to a word, `zext_16` (00_scope.md R9). -/
def zext8 (v : Byte) : Word := v.setWidth 16

/-- Sign extension of a 9-bit offset, `signed_9` mod 2^16 (30_encoding.md R97, R102). -/
def sext9 (v : BitVec 9) : Word := v.signExtend 16

/-- Sign extension of a 5-bit offset, `signed_5` mod 2^16 (30_encoding.md R101). -/
def sext5 (v : BitVec 5) : Word := v.signExtend 16

end Sys2Proof.Machine
end

