-- ==== Sys2Proof/Syntax.lean ====
section
/-! DEFINITION. The abstract syntax of the S12CPUV2: operand forms (30_encoding.md R93 to R118) and one constructor of
`Instr` per mnemonic of spec/opcode_table.json. Register numbers and operation codes are gone here; only the decoder and
the encoder see them. -/

namespace Sys2Proof

/-- Base register of an indexed operand: field `rr` of the postbyte (30_encoding.md R100). -/
inductive BaseReg where
  | x | y | sp | pc
  deriving DecidableEq, Repr

/-- Base register of the auto-modify form; PC is "not a valid choice" (30_encoding.md R100, R105). -/
inductive AutoReg where
  | x | y | sp
  deriving DecidableEq, Repr

/-- Accumulator offset (30_encoding.md R106). -/
inductive AccReg where
  | a | b | d
  deriving DecidableEq, Repr

/-- The indexed operand forms (30_encoding.md R100 to R107). Offsets are kept as the bits the encoding has. -/
inductive Idx where
  /-- IDX `n,r`: 5-bit signed constant offset (R101). -/
  | off5 (r : BaseReg) (n : BitVec 5)
  /-- IDX auto pre/post increment/decrement, with the 4-bit code `nnnn` of R105. -/
  | auto (r : AutoReg) (post : Bool) (n : BitVec 4)
  /-- IDX accumulator offset (R106). -/
  | acc (r : BaseReg) (k : AccReg)
  /-- IDX1: 9-bit signed constant offset (R102). -/
  | off9 (r : BaseReg) (n : BitVec 9)
  /-- IDX2: 16-bit constant offset (R103). -/
  | off16 (r : BaseReg) (n : Word)
  /-- [IDX2]: 16-bit offset indexed-indirect (R104). -/
  | ind16 (r : BaseReg) (n : Word)
  /-- [D,IDX]: accumulator D offset indexed-indirect (R107). -/
  | indD (r : BaseReg)
  deriving DecidableEq, Repr

/-- An 8-bit source operand: immediate, direct, extended or indexed (30_encoding.md R94 to R96, R111). -/
inductive Src8 where
  | imm (ii : Byte) | dir (dd : Byte) | ext (hhll : Word) | idx (i : Idx)
  deriving DecidableEq, Repr

/-- A 16-bit source operand. -/
inductive Src16 where
  | imm (jjkk : Word) | dir (dd : Byte) | ext (hhll : Word) | idx (i : Idx)
  deriving DecidableEq, Repr

/-- A memory operand of a store, a bit instruction or JSR: direct, extended or indexed. -/
inductive MemOp where
  | dir (dd : Byte) | ext (hhll : Word) | idx (i : Idx)
  deriving DecidableEq, Repr

/-- A memory operand with no direct form: in-place instructions, TST, JMP, the destination of a move. -/
inductive ExtIdx where
  | ext (hhll : Word) | idx (i : Idx)
  deriving DecidableEq, Repr

/-- The source of MOVB (30_encoding.md R116). -/
inductive MovSrc8 where
  | imm (ii : Byte) | ext (hhll : Word) | idx (i : Idx)
  deriving DecidableEq, Repr

/-- The source of MOVW (30_encoding.md R116). -/
inductive MovSrc16 where
  | imm (jjkk : Word) | ext (hhll : Word) | idx (i : Idx)
  deriving DecidableEq, Repr

/-- The target of CALL: the indirect forms take the page from memory and carry no page byte (30_encoding.md R117). -/
inductive CallTarget where
  | ext (hhll : Word) (pg : Byte) | idx (i : Idx) (pg : Byte) | ind (i : Idx)
  deriving DecidableEq, Repr

/-- The counter of a loop primitive (30_encoding.md R114). -/
inductive LoopReg where
  | a | b | d | x | y | sp
  deriving DecidableEq, Repr

/-- A register code of TFR and EXG; `tmp` is TMP3 as the first operand and TMP2 as the second (30_encoding.md R113). -/
inductive XReg where
  | a | b | ccr | tmp | d | x | y | sp
  deriving DecidableEq, Repr

/-- The 8-bit source of SEX (30_encoding.md R126). -/
inductive SexSrc where
  | a | b | ccr
  deriving DecidableEq, Repr

/-- The 16-bit destination of SEX (30_encoding.md R126). -/
inductive SexDst where
  | d | x | y | sp
  deriving DecidableEq, Repr

/-- The instructions, one constructor per mnemonic of spec/opcode_table.json, in the table's order. A constructor marked
"second name" has no bytes of its own (30_encoding.md R126): the decoder answers the core instruction. -/
inductive Instr where
  /-- BGND (R494). -/
  | bgnd
  /-- MEM (R342). -/
  | mem
  /-- INY (R226). -/
  | iny
  /-- DEY (R223). -/
  | dey
  /-- DBEQ (R425). -/
  | dbeq (r : LoopReg) (off : BitVec 9)
  /-- DBNE (R426). -/
  | dbne (r : LoopReg) (off : BitVec 9)
  /-- TBEQ (R429). -/
  | tbeq (r : LoopReg) (off : BitVec 9)
  /-- TBNE (R430). -/
  | tbne (r : LoopReg) (off : BitVec 9)
  /-- IBEQ (R427). -/
  | ibeq (r : LoopReg) (off : BitVec 9)
  /-- IBNE (R428). -/
  | ibne (r : LoopReg) (off : BitVec 9)
  /-- the unassigned loop postbytes, lb[7:6] = 11 (R114, U3): no instruction. -/
  | unassignedLoopPostbyte (lb : Byte) (rr : Byte)
  /-- JMP (R441). -/
  | jmp (ad : ExtIdx)
  /-- BSR (R443). -/
  | bsr (rr : Byte)
  /-- INX (R225). -/
  | inx
  /-- DEX (R222). -/
  | dex
  /-- RTC (R448). -/
  | rtc
  /-- RTI (R483). -/
  | rti
  /-- BSET (R270). -/
  | bset (ad : MemOp) (mm : Byte)
  /-- BCLR (R269). -/
  | bclr (ad : MemOp) (mm : Byte)
  /-- BRSET (R422). -/
  | brset (ad : MemOp) (mm : Byte) (rr : Byte)
  /-- BRCLR (R423). -/
  | brclr (ad : MemOp) (mm : Byte) (rr : Byte)
  /-- ANDCC (R271). -/
  | andcc (ii : Byte)
  /-- EDIV (R325). -/
  | ediv
  /-- MUL (R322). -/
  | mul
  /-- EMUL (R323). -/
  | emul
  /-- ORCC (R272). -/
  | orcc (ii : Byte)
  /-- JSR (R444). -/
  | jsr (ad : MemOp)
  /-- the page-2 prebyte $18 (R91): no instruction by itself. -/
  | page2Prebyte
  /-- LEAY (R150). -/
  | leay (i : Idx)
  /-- LEAX (R149). -/
  | leax (i : Idx)
  /-- LEAS (R148). -/
  | leas (i : Idx)
  /-- BRA (R384). -/
  | bra (rr : Byte)
  /-- BRN (R385). -/
  | brn (rr : Byte)
  /-- BHI (R386). -/
  | bhi (rr : Byte)
  /-- BLS (R387). -/
  | bls (rr : Byte)
  /-- BCC (R388). -/
  | bcc (rr : Byte)
  /-- BCS (R390). -/
  | bcs (rr : Byte)
  /-- BNE (R392). -/
  | bne (rr : Byte)
  /-- BEQ (R393). -/
  | beq (rr : Byte)
  /-- BVC (R394). -/
  | bvc (rr : Byte)
  /-- BVS (R395). -/
  | bvs (rr : Byte)
  /-- BPL (R396). -/
  | bpl (rr : Byte)
  /-- BMI (R397). -/
  | bmi (rr : Byte)
  /-- BGE (R398). -/
  | bge (rr : Byte)
  /-- BLT (R399). -/
  | blt (rr : Byte)
  /-- BGT (R400). -/
  | bgt (rr : Byte)
  /-- BLE (R401). -/
  | ble (rr : Byte)
  /-- BHS (R389), second name. -/
  | bhs (rr : Byte)
  /-- BLO (R391), second name. -/
  | blo (rr : Byte)
  /-- PULX (R461). -/
  | pulx
  /-- PULY (R462). -/
  | puly
  /-- PULA (R457). -/
  | pula
  /-- PULB (R458). -/
  | pulb
  /-- PSHX (R455). -/
  | pshx
  /-- PSHY (R456). -/
  | pshy
  /-- PSHA (R451). -/
  | psha
  /-- PSHB (R452). -/
  | pshb
  /-- PULC (R459). -/
  | pulc
  /-- PSHC (R453). -/
  | pshc
  /-- PULD (R460). -/
  | puld
  /-- PSHD (R454). -/
  | pshd
  /-- wavr (R353). -/
  | wavr
  /-- RTS (R446). -/
  | rts
  /-- WAI (R488). -/
  | wai
  /-- SWI (R481). -/
  | swi
  /-- NEGA (R244). -/
  | nega
  /-- COMA (R241). -/
  | coma
  /-- INCA (R216). -/
  | inca
  /-- DECA (R219). -/
  | deca
  /-- LSRA (R292). -/
  | lsra
  /-- ROLA (R296). -/
  | rola
  /-- RORA (R299). -/
  | rora
  /-- ASRA (R285). -/
  | asra
  /-- ASLA (R281). -/
  | asla
  /-- LSRD (R294). -/
  | lsrd
  /-- LSLA (R288), second name. -/
  | lsla
  /-- CALL (R447). -/
  | call (t : CallTarget)
  /-- NEGB (R245). -/
  | negb
  /-- COMB (R242). -/
  | comb
  /-- INCB (R217). -/
  | incb
  /-- DECB (R220). -/
  | decb
  /-- LSRB (R293). -/
  | lsrb
  /-- ROLB (R297). -/
  | rolb
  /-- RORB (R300). -/
  | rorb
  /-- ASRB (R286). -/
  | asrb
  /-- ASLB (R282). -/
  | aslb
  /-- ASLD (R283). -/
  | asld
  /-- LSLB (R289), second name. -/
  | lslb
  /-- LSLD (R290), second name. -/
  | lsld
  /-- STAA (R151). -/
  | staa (ad : MemOp)
  /-- STAB (R152). -/
  | stab (ad : MemOp)
  /-- STD (R153). -/
  | std (ad : MemOp)
  /-- STY (R156). -/
  | sty (ad : MemOp)
  /-- STX (R155). -/
  | stx (ad : MemOp)
  /-- STS (R154). -/
  | sts (ad : MemOp)
  /-- NEG (R243). -/
  | neg (ad : ExtIdx)
  /-- COM (R240). -/
  | com (ad : ExtIdx)
  /-- INC (R215). -/
  | inc (ad : ExtIdx)
  /-- DEC (R218). -/
  | dec (ad : ExtIdx)
  /-- LSR (R291). -/
  | lsr (ad : ExtIdx)
  /-- ROL (R295). -/
  | rol (ad : ExtIdx)
  /-- ROR (R298). -/
  | ror (ad : ExtIdx)
  /-- ASR (R284). -/
  | asr (ad : ExtIdx)
  /-- ASL (R280). -/
  | asl (ad : ExtIdx)
  /-- CLR (R237). -/
  | clr (ad : ExtIdx)
  /-- LSL (R287), second name. -/
  | lsl (ad : ExtIdx)
  /-- SUBA (R208). -/
  | suba (src : Src8)
  /-- CMPA (R228). -/
  | cmpa (src : Src8)
  /-- SBCA (R210). -/
  | sbca (src : Src8)
  /-- SUBD (R212). -/
  | subd (src : Src16)
  /-- ANDA (R261). -/
  | anda (src : Src8)
  /-- BITA (R267). -/
  | bita (src : Src8)
  /-- LDAA (R142). -/
  | ldaa (src : Src8)
  /-- EORA (R265). -/
  | eora (src : Src8)
  /-- ADCA (R202). -/
  | adca (src : Src8)
  /-- ORAA (R263). -/
  | oraa (src : Src8)
  /-- ADDA (R200). -/
  | adda (src : Src8)
  /-- CPD (R230). -/
  | cpd (src : Src16)
  /-- CPY (R233). -/
  | cpy (src : Src16)
  /-- CPX (R232). -/
  | cpx (src : Src16)
  /-- CPS (R231). -/
  | cps (src : Src16)
  /-- SUBB (R209). -/
  | subb (src : Src8)
  /-- CMPB (R229). -/
  | cmpb (src : Src8)
  /-- SBCB (R211). -/
  | sbcb (src : Src8)
  /-- ADDD (R204). -/
  | addd (src : Src16)
  /-- ANDB (R262). -/
  | andb (src : Src8)
  /-- BITB (R268). -/
  | bitb (src : Src8)
  /-- LDAB (R143). -/
  | ldab (src : Src8)
  /-- EORB (R266). -/
  | eorb (src : Src8)
  /-- ADCB (R203). -/
  | adcb (src : Src8)
  /-- ORAB (R264). -/
  | orab (src : Src8)
  /-- ADDB (R201). -/
  | addb (src : Src8)
  /-- LDD (R144). -/
  | ldd (src : Src16)
  /-- LDY (R147). -/
  | ldy (src : Src16)
  /-- LDX (R146). -/
  | ldx (src : Src16)
  /-- LDS (R145). -/
  | lds (src : Src16)
  /-- CLRA (R238). -/
  | clra
  /-- TSTA (R235). -/
  | tsta
  /-- NOP (R496). -/
  | nop
  /-- TFR (R160). -/
  | tfr (src : XReg) (dst : XReg)
  /-- EXG (R163). -/
  | exg (src : XReg) (dst : XReg)
  /-- SEX (R161), second name. -/
  | sex (src : SexSrc) (dst : SexDst)
  /-- CLRB (R239). -/
  | clrb
  /-- TSTB (R236). -/
  | tstb
  /-- TST (R234). -/
  | tst (ad : ExtIdx)
  /-- ABX (R206), second name. -/
  | abx
  /-- ABY (R207), second name. -/
  | aby
  /-- CLC (R273), second name. -/
  | clc
  /-- CLI (R274), second name. -/
  | cli
  /-- CLV (R275), second name. -/
  | clv
  /-- SEC (R276), second name. -/
  | sec
  /-- SEI (R277), second name. -/
  | sei
  /-- SEV (R278), second name. -/
  | sev
  /-- DES (R221), second name. -/
  | des
  /-- INS (R224), second name. -/
  | ins
  /-- TAP (R165), second name. -/
  | tap
  /-- TPA (R166), second name. -/
  | tpa
  /-- TSX (R167), second name. -/
  | tsx
  /-- TSY (R168), second name. -/
  | tsy
  /-- TXS (R169), second name. -/
  | txs
  /-- TYS (R170), second name. -/
  | tys
  /-- XGDX (R171), second name. -/
  | xgdx
  /-- XGDY (R172), second name. -/
  | xgdy
  /-- MOVW (R174). -/
  | movw (src : MovSrc16) (dst : ExtIdx)
  /-- MOVB (R173). -/
  | movb (src : MovSrc8) (dst : ExtIdx)
  /-- ABA (R205). -/
  | aba
  /-- DAA (R214). -/
  | daa
  /-- TAB (R157). -/
  | tab
  /-- TBA (R158). -/
  | tba
  /-- IDIV (R328). -/
  | idiv
  /-- FDIV (R327). -/
  | fdiv
  /-- EMACS (R330). -/
  | emacs (hhll : Word)
  /-- EMULS (R324). -/
  | emuls
  /-- EDIVS (R326). -/
  | edivs
  /-- IDIVS (R329). -/
  | idivs
  /-- SBA (R213). -/
  | sba
  /-- CBA (R227). -/
  | cba
  /-- MAXA (R355). -/
  | maxa (i : Idx)
  /-- MINA (R356). -/
  | mina (i : Idx)
  /-- EMAXD (R359). -/
  | emaxd (i : Idx)
  /-- EMIND (R360). -/
  | emind (i : Idx)
  /-- MAXM (R357). -/
  | maxm (i : Idx)
  /-- MINM (R358). -/
  | minm (i : Idx)
  /-- EMAXM (R361). -/
  | emaxm (i : Idx)
  /-- EMINM (R362). -/
  | eminm (i : Idx)
  /-- LBRA (R403). -/
  | lbra (qqrr : Word)
  /-- LBRN (R404). -/
  | lbrn (qqrr : Word)
  /-- LBHI (R405). -/
  | lbhi (qqrr : Word)
  /-- LBLS (R406). -/
  | lbls (qqrr : Word)
  /-- LBCC (R407). -/
  | lbcc (qqrr : Word)
  /-- LBCS (R409). -/
  | lbcs (qqrr : Word)
  /-- LBNE (R411). -/
  | lbne (qqrr : Word)
  /-- LBEQ (R412). -/
  | lbeq (qqrr : Word)
  /-- LBVC (R413). -/
  | lbvc (qqrr : Word)
  /-- LBVS (R414). -/
  | lbvs (qqrr : Word)
  /-- LBPL (R415). -/
  | lbpl (qqrr : Word)
  /-- LBMI (R416). -/
  | lbmi (qqrr : Word)
  /-- LBGE (R417). -/
  | lbge (qqrr : Word)
  /-- LBLT (R418). -/
  | lblt (qqrr : Word)
  /-- LBGT (R419). -/
  | lbgt (qqrr : Word)
  /-- LBLE (R420). -/
  | lble (qqrr : Word)
  /-- LBHS (R408), second name. -/
  | lbhs (qqrr : Word)
  /-- LBLO (R410), second name. -/
  | lblo (qqrr : Word)
  /-- REV (R344). -/
  | rev
  /-- REVW (R346). -/
  | revw
  /-- WAV (R351). -/
  | wav
  /-- TBL (R364). -/
  | tbl (i : Idx)
  /-- STOP (R489). -/
  | stop
  /-- ETBL (R365). -/
  | etbl (i : Idx)
  /-- TRAP (R482). -/
  | trap (tn : Byte)
  deriving DecidableEq, Repr

end Sys2Proof
end

