-- ==== Sys2Proof/WellFormed.lean ====
section
/-! DEFINITION. Which terms of the syntax are instructions: the operand forms each instruction accepts
(30_encoding.md R110, R114, R117, R118). -/

namespace Sys2Proof

/-- The indexed forms that take the address from memory: [D,IDX] and [IDX2] (30_encoding.md R104, R107). -/
def Idx.indirect : Idx → Bool
  | .ind16 _ _ => true
  | .indD _ => true
  | _ => false

/-- Class (b) of 30_encoding.md R110: IDX, IDX1, IDX2 only. -/
def Idx.isDirect (i : Idx) : Bool := !i.indirect

/-- Class (c) of 30_encoding.md R110: forms with no extension byte and no indirection. -/
def Idx.isShort : Idx → Bool
  | .off5 _ _ => true
  | .auto _ _ _ => true
  | .acc _ _ => true
  | _ => false

/-- A memory operand whose indexed form is not indirect (30_encoding.md R110 (b)). -/
def MemOp.isDirect : MemOp → Bool
  | .idx i => i.isDirect
  | _ => true

/-- A move destination whose indexed form fits in one postbyte (30_encoding.md R110 (c)). -/
def ExtIdx.isShort : ExtIdx → Bool
  | .idx i => i.isShort
  | .ext _ => true

/-- A MOVB source whose indexed form fits in one postbyte (30_encoding.md R110 (c)). -/
def MovSrc8.isShort : MovSrc8 → Bool
  | .idx i => i.isShort
  | _ => true

/-- A MOVW source whose indexed form fits in one postbyte (30_encoding.md R110 (c)). -/
def MovSrc16.isShort : MovSrc16 → Bool
  | .idx i => i.isShort
  | _ => true

/-- CALL takes a page byte with the plain forms and none with the indirect ones (30_encoding.md R117). -/
def CallTarget.formOk : CallTarget → Bool
  | .ext _ _ => true
  | .idx i _ => i.isDirect
  | .ind i => i.indirect

/-- The trap numbers: page-2 opcodes $30 to $39 and $40 to $FF (30_encoding.md R118). -/
def trapNumberOk (tn : Byte) : Bool :=
  (0x30 ≤ tn.toNat && tn.toNat ≤ 0x39) || 0x40 ≤ tn.toNat

/-- The loop postbytes with bits 7:6 = 11 (30_encoding.md R114). -/
def loopPostbyteUnassigned (lb : Byte) : Bool := 0xC0 ≤ lb.toNat

/-- The term is one that some bytes of 30_encoding.md stand for. -/
def Instr.wellFormed : Instr → Bool
  | .leay i => i.isDirect
  | .leax i => i.isDirect
  | .leas i => i.isDirect
  | .bset ad _ => ad.isDirect
  | .bclr ad _ => ad.isDirect
  | .brset ad _ _ => ad.isDirect
  | .brclr ad _ _ => ad.isDirect
  | .movb src dst => src.isShort && dst.isShort
  | .movw src dst => src.isShort && dst.isShort
  | .tbl i => i.isShort
  | .etbl i => i.isShort
  | .call t => t.formOk
  | .trap tn => trapNumberOk tn
  | .unassignedLoopPostbyte lb _ => loopPostbyteUnassigned lb
  | .page2Prebyte => false
  | _ => true

/-- The proposition the statements use. -/
def Instr.WellFormed (i : Instr) : Prop := i.wellFormed = true

end Sys2Proof
end

