-- ==== Sys2Proof/Decode.lean ====
section
/-! DEFINITION. The decoder, total on any bytes, and the encoder, both written from 30_encoding.md: the opcode maps R120 and
R121, the postbytes R100, R113, R114 and the compound formats R115 to R118. -/

namespace Sys2Proof

open Sys2Proof.Machine (hiByte loByte word)

/-- Why some bytes stand for no instruction. -/
inductive DecodeError where
  /-- The bytes end before the instruction does. Raised by a list that is too short; the machine always offers six bytes.
  Safe. -/
  | truncated
  /-- A loop postbyte whose register code lb[2:0] is 010 or 011 (30_encoding.md R114, U3). Safe. -/
  | loopRegisterUnassigned
  /-- An indexed form the instruction does not accept (30_encoding.md R110, U5). Safe. -/
  | indexedFormNotAccepted
  deriving DecidableEq, Repr

/-- A reader of some bytes: what it read and the bytes that follow, or why it could not. -/
abbrev Parser (α : Type) := List Byte → Except DecodeError (α × List Byte)

/-- One byte. -/
def parseByte : Parser Byte
  | [] => .error .truncated
  | v :: rest => .ok (v, rest)

/-- Two bytes, the high-order one first (20_memory.md R61). -/
def parseWord : Parser Word
  | h :: l :: rest => .ok (word h l, rest)
  | _ => .error .truncated

/-- No operand bytes. -/
def parse0 {α : Type} (v : α) : Parser α := fun bs => .ok (v, bs)

/-- One field. -/
def parse1 {α β : Type} (p : Parser α) (f : α → β) : Parser β := fun bs =>
  match p bs with
  | .ok (v, rest) => .ok (f v, rest)
  | .error e => .error e

/-- Two fields in the order they lie. -/
def parse2 {α β γ : Type} (p : Parser α) (q : Parser β) (f : α → β → γ) : Parser γ := fun bs =>
  match p bs with
  | .ok (v, rest) => parse1 q (f v) rest
  | .error e => .error e

/-- Three fields in the order they lie. -/
def parse3 {α β γ δ : Type} (p : Parser α) (q : Parser β) (r : Parser γ) (f : α → β → γ → δ) : Parser δ := fun bs =>
  match p bs with
  | .ok (v, rest) => parse2 q r (f v) rest
  | .error e => .error e

/-- A field whose value the instruction must accept (30_encoding.md R110). -/
def parseChecked (ok : Idx → Bool) (p : Parser Idx) : Parser Idx := fun bs =>
  match p bs with
  | .ok (v, rest) => if ok v then .ok (v, rest) else .error .indexedFormNotAccepted
  | .error e => .error e

/-- Field `rr` of the postbyte: 00 X, 01 Y, 10 SP, 11 PC (30_encoding.md R100). -/
def BaseReg.code : BaseReg → BitVec 2
  | .x => 0 | .y => 1 | .sp => 2 | .pc => 3

/-- The base register a code names. -/
def BaseReg.ofCode (v : BitVec 2) : BaseReg :=
  match v.toNat with
  | 0 => .x | 1 => .y | 2 => .sp | _ => .pc

/-- Field `rr` of the auto-modify form. -/
def AutoReg.code : AutoReg → BitVec 2
  | .x => 0 | .y => 1 | .sp => 2

/-- The register a code of the auto-modify form names; 11 names none (30_encoding.md R100). -/
def AutoReg.ofCode (v : BitVec 2) : Option AutoReg :=
  match v.toNat with
  | 0 => some .x | 1 => some .y | 2 => some .sp | _ => none

/-- Field `aa` of the accumulator-offset form: 00 A, 01 B, 10 D (30_encoding.md R106). -/
def AccReg.code : AccReg → BitVec 2
  | .a => 0 | .b => 1 | .d => 2

/-- An indexed operand: the postbyte and its extension bytes (30_encoding.md R100). -/
def parseIdx : Parser Idx
  | [] => .error .truncated
  | xb :: rest =>
    if xb.getLsbD 5 = false then .ok (.off5 (.ofCode (xb.extractLsb' 6 2)) (xb.extractLsb' 0 5), rest)
    else
      match AutoReg.ofCode (xb.extractLsb' 6 2) with
      | some r => .ok (.auto r (xb.getLsbD 4) (xb.extractLsb' 0 4), rest)
      | none =>
        let r := BaseReg.ofCode (xb.extractLsb' 3 2)
        match (xb.extractLsb' 0 3).toNat with
        | 0 => parse1 parseByte (fun ff => .off9 r (0#1 ++ ff)) rest
        | 1 => parse1 parseByte (fun ff => .off9 r (1#1 ++ ff)) rest
        | 2 => parse1 parseWord (.off16 r) rest
        | 3 => parse1 parseWord (.ind16 r) rest
        | 4 => .ok (.acc r .a, rest)
        | 5 => .ok (.acc r .b, rest)
        | 6 => .ok (.acc r .d, rest)
        | _ => .ok (.indD r, rest)

/-- CALL through a postbyte: the indirect forms have no page byte (30_encoding.md R117). -/
def parseCallIdx : Parser Instr := fun bs =>
  match parseIdx bs with
  | .ok (i, rest) => if i.indirect then .ok (.call (.ind i), rest) else parse1 parseByte (fun pg => .call (.idx i pg)) rest
  | .error e => .error e

/-- The register a code of the transfer postbyte names (30_encoding.md R113). -/
def XReg.ofCode (v : BitVec 3) : XReg :=
  match v.toNat with
  | 0 => .a | 1 => .b | 2 => .ccr | 3 => .tmp | 4 => .d | 5 => .x | 6 => .y | _ => .sp

/-- The code of a register in the transfer postbyte (30_encoding.md R113). -/
def XReg.code : XReg → BitVec 3
  | .a => 0 | .b => 1 | .ccr => 2 | .tmp => 3 | .d => 4 | .x => 5 | .y => 6 | .sp => 7

/-- TFR and EXG: eb[7] selects, eb[3] is ignored (30_encoding.md R113). -/
def parseTransfer : Parser Instr :=
  parse1 parseByte fun eb =>
    let src := XReg.ofCode (eb.extractLsb' 4 3)
    let dst := XReg.ofCode (eb.extractLsb' 0 3)
    if eb.getLsbD 7 then .exg src dst else .tfr src dst

/-- The counter a loop postbyte names: lb[2:0] (30_encoding.md R114). -/
def LoopReg.ofCode (v : BitVec 3) : Option LoopReg :=
  match v.toNat with
  | 0 => some .a | 1 => some .b | 4 => some .d | 5 => some .x | 6 => some .y | 7 => some .sp | _ => none

/-- The code of a counter in the loop postbyte (30_encoding.md R114). -/
def LoopReg.code : LoopReg → BitVec 3
  | .a => 0 | .b => 1 | .d => 4 | .x => 5 | .y => 6 | .sp => 7

/-- The loop primitive that lb[7:5] selects, for a postbyte below $C0 (30_encoding.md R114). -/
def loopInstr (kind : BitVec 3) (r : LoopReg) (off : BitVec 9) : Instr :=
  match kind.toNat with
  | 0 => .dbeq r off
  | 1 => .dbne r off
  | 2 => .tbeq r off
  | 3 => .tbne r off
  | 4 => .ibeq r off
  | _ => .ibne r off

/-- Opcode $04: `lb rr`, lb[4] the sign of the offset, lb[3] ignored (30_encoding.md R114). -/
def parseLoop : Parser Instr
  | lb :: rr :: rest =>
    if loopPostbyteUnassigned lb then .ok (.unassignedLoopPostbyte lb rr, rest)
    else
      match LoopReg.ofCode (lb.extractLsb' 0 3) with
      | some r => .ok (loopInstr (lb.extractLsb' 5 3) r (lb.extractLsb' 4 1 ++ rr), rest)
      | none => .error .loopRegisterUnassigned
  | _ => .error .truncated

/-- Page 2, opcodes $00 to $0F (30_encoding.md R121); the opcodes the table leaves out are the trap numbers (R118). -/
def page2Row0 (lo : Nat) : Parser Instr :=
  match lo with
  | 0 => parse2 (parseChecked Idx.isShort parseIdx) parseWord fun i v => .movw (.imm v) (.idx i)
  | 1 => parse2 (parseChecked Idx.isShort parseIdx) parseWord fun i v => .movw (.ext v) (.idx i)
  | 2 => parse2 (parseChecked Idx.isShort parseIdx) (parseChecked Idx.isShort parseIdx) fun i j => .movw (.idx i) (.idx j)
  | 3 => parse2 parseWord parseWord fun v h => .movw (.imm v) (.ext h)
  | 4 => parse2 parseWord parseWord fun v h => .movw (.ext v) (.ext h)
  | 5 => parse2 (parseChecked Idx.isShort parseIdx) parseWord fun i h => .movw (.idx i) (.ext h)
  | 6 => parse0 .aba
  | 7 => parse0 .daa
  | 8 => parse2 (parseChecked Idx.isShort parseIdx) parseByte fun i v => .movb (.imm v) (.idx i)
  | 9 => parse2 (parseChecked Idx.isShort parseIdx) parseWord fun i v => .movb (.ext v) (.idx i)
  | 10 => parse2 (parseChecked Idx.isShort parseIdx) (parseChecked Idx.isShort parseIdx) fun i j => .movb (.idx i) (.idx j)
  | 11 => parse2 parseByte parseWord fun v h => .movb (.imm v) (.ext h)
  | 12 => parse2 parseWord parseWord fun v h => .movb (.ext v) (.ext h)
  | 13 => parse2 (parseChecked Idx.isShort parseIdx) parseWord fun i h => .movb (.idx i) (.ext h)
  | 14 => parse0 .tab
  | _ => parse0 .tba

/-- Page 2, opcodes $10 to $1F (30_encoding.md R121); the opcodes the table leaves out are the trap numbers (R118). -/
def page2Row1 (lo : Nat) : Parser Instr :=
  match lo with
  | 0 => parse0 .idiv
  | 1 => parse0 .fdiv
  | 2 => parse1 parseWord fun v => .emacs v
  | 3 => parse0 .emuls
  | 4 => parse0 .edivs
  | 5 => parse0 .idivs
  | 6 => parse0 .sba
  | 7 => parse0 .cba
  | 8 => parse1 parseIdx fun v => .maxa v
  | 9 => parse1 parseIdx fun v => .mina v
  | 10 => parse1 parseIdx fun v => .emaxd v
  | 11 => parse1 parseIdx fun v => .emind v
  | 12 => parse1 parseIdx fun v => .maxm v
  | 13 => parse1 parseIdx fun v => .minm v
  | 14 => parse1 parseIdx fun v => .emaxm v
  | _ => parse1 parseIdx fun v => .eminm v

/-- Page 2, opcodes $20 to $2F (30_encoding.md R121); the opcodes the table leaves out are the trap numbers (R118). -/
def page2Row2 (lo : Nat) : Parser Instr :=
  match lo with
  | 0 => parse1 parseWord fun v => .lbra v
  | 1 => parse1 parseWord fun v => .lbrn v
  | 2 => parse1 parseWord fun v => .lbhi v
  | 3 => parse1 parseWord fun v => .lbls v
  | 4 => parse1 parseWord fun v => .lbcc v
  | 5 => parse1 parseWord fun v => .lbcs v
  | 6 => parse1 parseWord fun v => .lbne v
  | 7 => parse1 parseWord fun v => .lbeq v
  | 8 => parse1 parseWord fun v => .lbvc v
  | 9 => parse1 parseWord fun v => .lbvs v
  | 10 => parse1 parseWord fun v => .lbpl v
  | 11 => parse1 parseWord fun v => .lbmi v
  | 12 => parse1 parseWord fun v => .lbge v
  | 13 => parse1 parseWord fun v => .lblt v
  | 14 => parse1 parseWord fun v => .lbgt v
  | _ => parse1 parseWord fun v => .lble v

/-- Page 2, opcodes $30 to $3F (30_encoding.md R121); the opcodes the table leaves out are the trap numbers (R118). -/
def page2Row3 (lo : Nat) : Parser Instr :=
  match lo with
  | 10 => parse0 .rev
  | 11 => parse0 .revw
  | 12 => parse0 .wav
  | 13 => parse1 (parseChecked Idx.isShort parseIdx) fun v => .tbl v
  | 14 => parse0 .stop
  | 15 => parse1 (parseChecked Idx.isShort parseIdx) fun v => .etbl v
  | _ => parse0 (.trap (BitVec.ofNat 8 (0x30 + lo)))

/-- The instruction whose page-2 opcode comes first in the bytes (30_encoding.md R121, R118). -/
def decodePage2 : Parser Instr
  | [] => .error .truncated
  | op :: rest =>
    let lo := op.toNat % 16
    match op.toNat / 16 with
    | 0 => page2Row0 lo rest
    | 1 => page2Row1 lo rest
    | 2 => page2Row2 lo rest
    | 3 => page2Row3 lo rest
    | _ => .ok (.trap op, rest)

/-- Page 1, opcodes $00 to $0F (30_encoding.md R120). -/
def page1Row0 (lo : Nat) : Parser Instr :=
  match lo with
  | 0 => parse0 .bgnd
  | 1 => parse0 .mem
  | 2 => parse0 .iny
  | 3 => parse0 .dey
  | 4 => parseLoop
  | 5 => parse1 parseIdx fun v => .jmp (.idx v)
  | 6 => parse1 parseWord fun v => .jmp (.ext v)
  | 7 => parse1 parseByte fun v => .bsr v
  | 8 => parse0 .inx
  | 9 => parse0 .dex
  | 10 => parse0 .rtc
  | 11 => parse0 .rti
  | 12 => parse2 (parse1 (parseChecked Idx.isDirect parseIdx) MemOp.idx) parseByte fun v mm => .bset v mm
  | 13 => parse2 (parse1 (parseChecked Idx.isDirect parseIdx) MemOp.idx) parseByte fun v mm => .bclr v mm
  | 14 => parse3 (parse1 (parseChecked Idx.isDirect parseIdx) MemOp.idx) parseByte parseByte fun v mm rr => .brset v mm rr
  | _ => parse3 (parse1 (parseChecked Idx.isDirect parseIdx) MemOp.idx) parseByte parseByte fun v mm rr => .brclr v mm rr

/-- Page 1, opcodes $10 to $1F (30_encoding.md R120). -/
def page1Row1 (lo : Nat) : Parser Instr :=
  match lo with
  | 0 => parse1 parseByte fun v => .andcc v
  | 1 => parse0 .ediv
  | 2 => parse0 .mul
  | 3 => parse0 .emul
  | 4 => parse1 parseByte fun v => .orcc v
  | 5 => parse1 parseIdx fun v => .jsr (.idx v)
  | 6 => parse1 parseWord fun v => .jsr (.ext v)
  | 7 => parse1 parseByte fun v => .jsr (.dir v)
  | 8 => decodePage2
  | 9 => parse1 (parseChecked Idx.isDirect parseIdx) fun v => .leay v
  | 10 => parse1 (parseChecked Idx.isDirect parseIdx) fun v => .leax v
  | 11 => parse1 (parseChecked Idx.isDirect parseIdx) fun v => .leas v
  | 12 => parse2 (parse1 parseWord MemOp.ext) parseByte fun v mm => .bset v mm
  | 13 => parse2 (parse1 parseWord MemOp.ext) parseByte fun v mm => .bclr v mm
  | 14 => parse3 (parse1 parseWord MemOp.ext) parseByte parseByte fun v mm rr => .brset v mm rr
  | _ => parse3 (parse1 parseWord MemOp.ext) parseByte parseByte fun v mm rr => .brclr v mm rr

/-- Page 1, opcodes $20 to $2F (30_encoding.md R120). -/
def page1Row2 (lo : Nat) : Parser Instr :=
  match lo with
  | 0 => parse1 parseByte fun v => .bra v
  | 1 => parse1 parseByte fun v => .brn v
  | 2 => parse1 parseByte fun v => .bhi v
  | 3 => parse1 parseByte fun v => .bls v
  | 4 => parse1 parseByte fun v => .bcc v
  | 5 => parse1 parseByte fun v => .bcs v
  | 6 => parse1 parseByte fun v => .bne v
  | 7 => parse1 parseByte fun v => .beq v
  | 8 => parse1 parseByte fun v => .bvc v
  | 9 => parse1 parseByte fun v => .bvs v
  | 10 => parse1 parseByte fun v => .bpl v
  | 11 => parse1 parseByte fun v => .bmi v
  | 12 => parse1 parseByte fun v => .bge v
  | 13 => parse1 parseByte fun v => .blt v
  | 14 => parse1 parseByte fun v => .bgt v
  | _ => parse1 parseByte fun v => .ble v

/-- Page 1, opcodes $30 to $3F (30_encoding.md R120). -/
def page1Row3 (lo : Nat) : Parser Instr :=
  match lo with
  | 0 => parse0 .pulx
  | 1 => parse0 .puly
  | 2 => parse0 .pula
  | 3 => parse0 .pulb
  | 4 => parse0 .pshx
  | 5 => parse0 .pshy
  | 6 => parse0 .psha
  | 7 => parse0 .pshb
  | 8 => parse0 .pulc
  | 9 => parse0 .pshc
  | 10 => parse0 .puld
  | 11 => parse0 .pshd
  | 12 => parse0 .wavr
  | 13 => parse0 .rts
  | 14 => parse0 .wai
  | _ => parse0 .swi

/-- Page 1, opcodes $40 to $4F (30_encoding.md R120). -/
def page1Row4 (lo : Nat) : Parser Instr :=
  match lo with
  | 0 => parse0 .nega
  | 1 => parse0 .coma
  | 2 => parse0 .inca
  | 3 => parse0 .deca
  | 4 => parse0 .lsra
  | 5 => parse0 .rola
  | 6 => parse0 .rora
  | 7 => parse0 .asra
  | 8 => parse0 .asla
  | 9 => parse0 .lsrd
  | 10 => parse2 parseWord parseByte fun v pg => .call (.ext v pg)
  | 11 => parseCallIdx
  | 12 => parse2 (parse1 parseByte MemOp.dir) parseByte fun v mm => .bset v mm
  | 13 => parse2 (parse1 parseByte MemOp.dir) parseByte fun v mm => .bclr v mm
  | 14 => parse3 (parse1 parseByte MemOp.dir) parseByte parseByte fun v mm rr => .brset v mm rr
  | _ => parse3 (parse1 parseByte MemOp.dir) parseByte parseByte fun v mm rr => .brclr v mm rr

/-- Page 1, opcodes $50 to $5F (30_encoding.md R120). -/
def page1Row5 (lo : Nat) : Parser Instr :=
  match lo with
  | 0 => parse0 .negb
  | 1 => parse0 .comb
  | 2 => parse0 .incb
  | 3 => parse0 .decb
  | 4 => parse0 .lsrb
  | 5 => parse0 .rolb
  | 6 => parse0 .rorb
  | 7 => parse0 .asrb
  | 8 => parse0 .aslb
  | 9 => parse0 .asld
  | 10 => parse1 parseByte fun v => .staa (.dir v)
  | 11 => parse1 parseByte fun v => .stab (.dir v)
  | 12 => parse1 parseByte fun v => .std (.dir v)
  | 13 => parse1 parseByte fun v => .sty (.dir v)
  | 14 => parse1 parseByte fun v => .stx (.dir v)
  | _ => parse1 parseByte fun v => .sts (.dir v)

/-- Page 1, opcodes $60 to $6F (30_encoding.md R120). -/
def page1Row6 (lo : Nat) : Parser Instr :=
  match lo with
  | 0 => parse1 parseIdx fun v => .neg (.idx v)
  | 1 => parse1 parseIdx fun v => .com (.idx v)
  | 2 => parse1 parseIdx fun v => .inc (.idx v)
  | 3 => parse1 parseIdx fun v => .dec (.idx v)
  | 4 => parse1 parseIdx fun v => .lsr (.idx v)
  | 5 => parse1 parseIdx fun v => .rol (.idx v)
  | 6 => parse1 parseIdx fun v => .ror (.idx v)
  | 7 => parse1 parseIdx fun v => .asr (.idx v)
  | 8 => parse1 parseIdx fun v => .asl (.idx v)
  | 9 => parse1 parseIdx fun v => .clr (.idx v)
  | 10 => parse1 parseIdx fun v => .staa (.idx v)
  | 11 => parse1 parseIdx fun v => .stab (.idx v)
  | 12 => parse1 parseIdx fun v => .std (.idx v)
  | 13 => parse1 parseIdx fun v => .sty (.idx v)
  | 14 => parse1 parseIdx fun v => .stx (.idx v)
  | _ => parse1 parseIdx fun v => .sts (.idx v)

/-- Page 1, opcodes $70 to $7F (30_encoding.md R120). -/
def page1Row7 (lo : Nat) : Parser Instr :=
  match lo with
  | 0 => parse1 parseWord fun v => .neg (.ext v)
  | 1 => parse1 parseWord fun v => .com (.ext v)
  | 2 => parse1 parseWord fun v => .inc (.ext v)
  | 3 => parse1 parseWord fun v => .dec (.ext v)
  | 4 => parse1 parseWord fun v => .lsr (.ext v)
  | 5 => parse1 parseWord fun v => .rol (.ext v)
  | 6 => parse1 parseWord fun v => .ror (.ext v)
  | 7 => parse1 parseWord fun v => .asr (.ext v)
  | 8 => parse1 parseWord fun v => .asl (.ext v)
  | 9 => parse1 parseWord fun v => .clr (.ext v)
  | 10 => parse1 parseWord fun v => .staa (.ext v)
  | 11 => parse1 parseWord fun v => .stab (.ext v)
  | 12 => parse1 parseWord fun v => .std (.ext v)
  | 13 => parse1 parseWord fun v => .sty (.ext v)
  | 14 => parse1 parseWord fun v => .stx (.ext v)
  | _ => parse1 parseWord fun v => .sts (.ext v)

/-- Page 1, opcodes $80 to $8F (30_encoding.md R120). -/
def page1Row8 (lo : Nat) : Parser Instr :=
  match lo with
  | 0 => parse1 parseByte fun v => .suba (.imm v)
  | 1 => parse1 parseByte fun v => .cmpa (.imm v)
  | 2 => parse1 parseByte fun v => .sbca (.imm v)
  | 3 => parse1 parseWord fun v => .subd (.imm v)
  | 4 => parse1 parseByte fun v => .anda (.imm v)
  | 5 => parse1 parseByte fun v => .bita (.imm v)
  | 6 => parse1 parseByte fun v => .ldaa (.imm v)
  | 7 => parse0 .clra
  | 8 => parse1 parseByte fun v => .eora (.imm v)
  | 9 => parse1 parseByte fun v => .adca (.imm v)
  | 10 => parse1 parseByte fun v => .oraa (.imm v)
  | 11 => parse1 parseByte fun v => .adda (.imm v)
  | 12 => parse1 parseWord fun v => .cpd (.imm v)
  | 13 => parse1 parseWord fun v => .cpy (.imm v)
  | 14 => parse1 parseWord fun v => .cpx (.imm v)
  | _ => parse1 parseWord fun v => .cps (.imm v)

/-- Page 1, opcodes $90 to $9F (30_encoding.md R120). -/
def page1Row9 (lo : Nat) : Parser Instr :=
  match lo with
  | 0 => parse1 parseByte fun v => .suba (.dir v)
  | 1 => parse1 parseByte fun v => .cmpa (.dir v)
  | 2 => parse1 parseByte fun v => .sbca (.dir v)
  | 3 => parse1 parseByte fun v => .subd (.dir v)
  | 4 => parse1 parseByte fun v => .anda (.dir v)
  | 5 => parse1 parseByte fun v => .bita (.dir v)
  | 6 => parse1 parseByte fun v => .ldaa (.dir v)
  | 7 => parse0 .tsta
  | 8 => parse1 parseByte fun v => .eora (.dir v)
  | 9 => parse1 parseByte fun v => .adca (.dir v)
  | 10 => parse1 parseByte fun v => .oraa (.dir v)
  | 11 => parse1 parseByte fun v => .adda (.dir v)
  | 12 => parse1 parseByte fun v => .cpd (.dir v)
  | 13 => parse1 parseByte fun v => .cpy (.dir v)
  | 14 => parse1 parseByte fun v => .cpx (.dir v)
  | _ => parse1 parseByte fun v => .cps (.dir v)

/-- Page 1, opcodes $A0 to $AF (30_encoding.md R120). -/
def page1RowA (lo : Nat) : Parser Instr :=
  match lo with
  | 0 => parse1 parseIdx fun v => .suba (.idx v)
  | 1 => parse1 parseIdx fun v => .cmpa (.idx v)
  | 2 => parse1 parseIdx fun v => .sbca (.idx v)
  | 3 => parse1 parseIdx fun v => .subd (.idx v)
  | 4 => parse1 parseIdx fun v => .anda (.idx v)
  | 5 => parse1 parseIdx fun v => .bita (.idx v)
  | 6 => parse1 parseIdx fun v => .ldaa (.idx v)
  | 7 => parse0 .nop
  | 8 => parse1 parseIdx fun v => .eora (.idx v)
  | 9 => parse1 parseIdx fun v => .adca (.idx v)
  | 10 => parse1 parseIdx fun v => .oraa (.idx v)
  | 11 => parse1 parseIdx fun v => .adda (.idx v)
  | 12 => parse1 parseIdx fun v => .cpd (.idx v)
  | 13 => parse1 parseIdx fun v => .cpy (.idx v)
  | 14 => parse1 parseIdx fun v => .cpx (.idx v)
  | _ => parse1 parseIdx fun v => .cps (.idx v)

/-- Page 1, opcodes $B0 to $BF (30_encoding.md R120). -/
def page1RowB (lo : Nat) : Parser Instr :=
  match lo with
  | 0 => parse1 parseWord fun v => .suba (.ext v)
  | 1 => parse1 parseWord fun v => .cmpa (.ext v)
  | 2 => parse1 parseWord fun v => .sbca (.ext v)
  | 3 => parse1 parseWord fun v => .subd (.ext v)
  | 4 => parse1 parseWord fun v => .anda (.ext v)
  | 5 => parse1 parseWord fun v => .bita (.ext v)
  | 6 => parse1 parseWord fun v => .ldaa (.ext v)
  | 7 => parseTransfer
  | 8 => parse1 parseWord fun v => .eora (.ext v)
  | 9 => parse1 parseWord fun v => .adca (.ext v)
  | 10 => parse1 parseWord fun v => .oraa (.ext v)
  | 11 => parse1 parseWord fun v => .adda (.ext v)
  | 12 => parse1 parseWord fun v => .cpd (.ext v)
  | 13 => parse1 parseWord fun v => .cpy (.ext v)
  | 14 => parse1 parseWord fun v => .cpx (.ext v)
  | _ => parse1 parseWord fun v => .cps (.ext v)

/-- Page 1, opcodes $C0 to $CF (30_encoding.md R120). -/
def page1RowC (lo : Nat) : Parser Instr :=
  match lo with
  | 0 => parse1 parseByte fun v => .subb (.imm v)
  | 1 => parse1 parseByte fun v => .cmpb (.imm v)
  | 2 => parse1 parseByte fun v => .sbcb (.imm v)
  | 3 => parse1 parseWord fun v => .addd (.imm v)
  | 4 => parse1 parseByte fun v => .andb (.imm v)
  | 5 => parse1 parseByte fun v => .bitb (.imm v)
  | 6 => parse1 parseByte fun v => .ldab (.imm v)
  | 7 => parse0 .clrb
  | 8 => parse1 parseByte fun v => .eorb (.imm v)
  | 9 => parse1 parseByte fun v => .adcb (.imm v)
  | 10 => parse1 parseByte fun v => .orab (.imm v)
  | 11 => parse1 parseByte fun v => .addb (.imm v)
  | 12 => parse1 parseWord fun v => .ldd (.imm v)
  | 13 => parse1 parseWord fun v => .ldy (.imm v)
  | 14 => parse1 parseWord fun v => .ldx (.imm v)
  | _ => parse1 parseWord fun v => .lds (.imm v)

/-- Page 1, opcodes $D0 to $DF (30_encoding.md R120). -/
def page1RowD (lo : Nat) : Parser Instr :=
  match lo with
  | 0 => parse1 parseByte fun v => .subb (.dir v)
  | 1 => parse1 parseByte fun v => .cmpb (.dir v)
  | 2 => parse1 parseByte fun v => .sbcb (.dir v)
  | 3 => parse1 parseByte fun v => .addd (.dir v)
  | 4 => parse1 parseByte fun v => .andb (.dir v)
  | 5 => parse1 parseByte fun v => .bitb (.dir v)
  | 6 => parse1 parseByte fun v => .ldab (.dir v)
  | 7 => parse0 .tstb
  | 8 => parse1 parseByte fun v => .eorb (.dir v)
  | 9 => parse1 parseByte fun v => .adcb (.dir v)
  | 10 => parse1 parseByte fun v => .orab (.dir v)
  | 11 => parse1 parseByte fun v => .addb (.dir v)
  | 12 => parse1 parseByte fun v => .ldd (.dir v)
  | 13 => parse1 parseByte fun v => .ldy (.dir v)
  | 14 => parse1 parseByte fun v => .ldx (.dir v)
  | _ => parse1 parseByte fun v => .lds (.dir v)

/-- Page 1, opcodes $E0 to $EF (30_encoding.md R120). -/
def page1RowE (lo : Nat) : Parser Instr :=
  match lo with
  | 0 => parse1 parseIdx fun v => .subb (.idx v)
  | 1 => parse1 parseIdx fun v => .cmpb (.idx v)
  | 2 => parse1 parseIdx fun v => .sbcb (.idx v)
  | 3 => parse1 parseIdx fun v => .addd (.idx v)
  | 4 => parse1 parseIdx fun v => .andb (.idx v)
  | 5 => parse1 parseIdx fun v => .bitb (.idx v)
  | 6 => parse1 parseIdx fun v => .ldab (.idx v)
  | 7 => parse1 parseIdx fun v => .tst (.idx v)
  | 8 => parse1 parseIdx fun v => .eorb (.idx v)
  | 9 => parse1 parseIdx fun v => .adcb (.idx v)
  | 10 => parse1 parseIdx fun v => .orab (.idx v)
  | 11 => parse1 parseIdx fun v => .addb (.idx v)
  | 12 => parse1 parseIdx fun v => .ldd (.idx v)
  | 13 => parse1 parseIdx fun v => .ldy (.idx v)
  | 14 => parse1 parseIdx fun v => .ldx (.idx v)
  | _ => parse1 parseIdx fun v => .lds (.idx v)

/-- Page 1, opcodes $F0 to $FF (30_encoding.md R120). -/
def page1RowF (lo : Nat) : Parser Instr :=
  match lo with
  | 0 => parse1 parseWord fun v => .subb (.ext v)
  | 1 => parse1 parseWord fun v => .cmpb (.ext v)
  | 2 => parse1 parseWord fun v => .sbcb (.ext v)
  | 3 => parse1 parseWord fun v => .addd (.ext v)
  | 4 => parse1 parseWord fun v => .andb (.ext v)
  | 5 => parse1 parseWord fun v => .bitb (.ext v)
  | 6 => parse1 parseWord fun v => .ldab (.ext v)
  | 7 => parse1 parseWord fun v => .tst (.ext v)
  | 8 => parse1 parseWord fun v => .eorb (.ext v)
  | 9 => parse1 parseWord fun v => .adcb (.ext v)
  | 10 => parse1 parseWord fun v => .orab (.ext v)
  | 11 => parse1 parseWord fun v => .addb (.ext v)
  | 12 => parse1 parseWord fun v => .ldd (.ext v)
  | 13 => parse1 parseWord fun v => .ldy (.ext v)
  | 14 => parse1 parseWord fun v => .ldx (.ext v)
  | _ => parse1 parseWord fun v => .lds (.ext v)

/-- The instruction that some bytes begin with, and the bytes that follow it (30_encoding.md R90, R91). -/
def decode : Parser Instr
  | [] => .error .truncated
  | op :: rest =>
    let lo := op.toNat % 16
    match op.toNat / 16 with
    | 0 => page1Row0 lo rest
    | 1 => page1Row1 lo rest
    | 2 => page1Row2 lo rest
    | 3 => page1Row3 lo rest
    | 4 => page1Row4 lo rest
    | 5 => page1Row5 lo rest
    | 6 => page1Row6 lo rest
    | 7 => page1Row7 lo rest
    | 8 => page1Row8 lo rest
    | 9 => page1Row9 lo rest
    | 10 => page1RowA lo rest
    | 11 => page1RowB lo rest
    | 12 => page1RowC lo rest
    | 13 => page1RowD lo rest
    | 14 => page1RowE lo rest
    | _ => page1RowF lo rest

/-- The bytes a word lies in, high-order first (20_memory.md R61). -/
def wordBytes (w : Word) : List Byte := [hiByte w, loByte w]

/-- The postbyte and the extension bytes of an indexed operand (30_encoding.md R100 to R107). -/
def Idx.bytes : Idx → List Byte
  | .off5 r n => [r.code ++ 0#1 ++ n]
  | .auto r post n => [r.code ++ 1#1 ++ BitVec.ofBool post ++ n]
  | .off9 r n => [7#3 ++ r.code ++ 0#2 ++ n.extractLsb' 8 1, n.extractLsb' 0 8]
  | .off16 r n => (7#3 ++ r.code ++ 2#3) :: wordBytes n
  | .ind16 r n => (7#3 ++ r.code ++ 3#3) :: wordBytes n
  | .acc r k => [7#3 ++ r.code ++ 1#1 ++ k.code]
  | .indD r => [7#3 ++ r.code ++ 7#3]

/-- The two operand bytes of a loop primitive and its opcode (30_encoding.md R114), the ignored bit written 0. -/
def loopBytes (kind : BitVec 3) (r : LoopReg) (off : BitVec 9) : List Byte :=
  [0x04, kind ++ off.extractLsb' 8 1 ++ 0#1 ++ r.code, off.extractLsb' 0 8]

/-- The transfer postbyte (30_encoding.md R113), the ignored bit written 0. -/
def transferPostbyte (exchange : Bool) (src dst : XReg) : Byte :=
  BitVec.ofBool exchange ++ src.code ++ 0#1 ++ dst.code

/-- The transfer code of a source of SEX (30_encoding.md R126). -/
def SexSrc.reg : SexSrc → XReg
  | .a => .a | .b => .b | .ccr => .ccr

/-- The transfer code of a destination of SEX (30_encoding.md R126). -/
def SexDst.reg : SexDst → XReg
  | .d => .d | .x => .x | .y => .y | .sp => .sp

/-- The core instruction a second name stands for (30_encoding.md R126); any other instruction is itself. -/
def canon : Instr → Instr
  | .lsla => .asla
  | .lslb => .aslb
  | .lsld => .asld
  | .abx => .leax (.acc .x .b)
  | .aby => .leay (.acc .y .b)
  | .clc => .andcc 0xFE
  | .cli => .andcc 0xEF
  | .clv => .andcc 0xFD
  | .sec => .orcc 0x01
  | .sei => .orcc 0x10
  | .sev => .orcc 0x02
  | .des => .leas (.off5 .sp (-1))
  | .ins => .leas (.off5 .sp 1)
  | .tap => .tfr .a .ccr
  | .tpa => .tfr .ccr .a
  | .tsx => .tfr .sp .x
  | .tsy => .tfr .sp .y
  | .txs => .tfr .x .sp
  | .tys => .tfr .y .sp
  | .xgdx => .exg .d .x
  | .xgdy => .exg .d .y
  | .lsl ad => .asl ad
  | .sex src dst => .tfr src.reg dst.reg
  | .bhs rr => .bcc rr
  | .blo rr => .bcs rr
  | .lbhs qqrr => .lbcc qqrr
  | .lblo qqrr => .lbcs qqrr
  | i => i

/-- The bytes of an instruction (30_encoding.md R120, R121, R126). The prebyte stands for itself (R91). -/
def encode : Instr → List Byte
  | .bgnd => [0x00]
  | .mem => [0x01]
  | .iny => [0x02]
  | .dey => [0x03]
  | .dbeq r off => loopBytes 0#3 r off
  | .dbne r off => loopBytes 1#3 r off
  | .tbeq r off => loopBytes 2#3 r off
  | .tbne r off => loopBytes 3#3 r off
  | .ibeq r off => loopBytes 4#3 r off
  | .ibne r off => loopBytes 5#3 r off
  | .unassignedLoopPostbyte lb rr => [0x04, lb, rr]
  | .jmp (.ext hhll) => 0x06 :: wordBytes hhll
  | .jmp (.idx i) => 0x05 :: i.bytes
  | .bsr rr => [0x07, rr]
  | .inx => [0x08]
  | .dex => [0x09]
  | .rtc => [0x0A]
  | .rti => [0x0B]
  | .bset (.dir dd) mm => [0x4C, dd] ++ [mm]
  | .bset (.ext hhll) mm => 0x1C :: wordBytes hhll ++ [mm]
  | .bset (.idx i) mm => 0x0C :: i.bytes ++ [mm]
  | .bclr (.dir dd) mm => [0x4D, dd] ++ [mm]
  | .bclr (.ext hhll) mm => 0x1D :: wordBytes hhll ++ [mm]
  | .bclr (.idx i) mm => 0x0D :: i.bytes ++ [mm]
  | .brset (.dir dd) mm rr => [0x4E, dd] ++ [mm, rr]
  | .brset (.ext hhll) mm rr => 0x1E :: wordBytes hhll ++ [mm, rr]
  | .brset (.idx i) mm rr => 0x0E :: i.bytes ++ [mm, rr]
  | .brclr (.dir dd) mm rr => [0x4F, dd] ++ [mm, rr]
  | .brclr (.ext hhll) mm rr => 0x1F :: wordBytes hhll ++ [mm, rr]
  | .brclr (.idx i) mm rr => 0x0F :: i.bytes ++ [mm, rr]
  | .andcc ii => [0x10, ii]
  | .ediv => [0x11]
  | .mul => [0x12]
  | .emul => [0x13]
  | .orcc ii => [0x14, ii]
  | .jsr (.dir dd) => [0x17, dd]
  | .jsr (.ext hhll) => 0x16 :: wordBytes hhll
  | .jsr (.idx i) => 0x15 :: i.bytes
  | .page2Prebyte => [0x18]
  | .leay i => 0x19 :: i.bytes
  | .leax i => 0x1A :: i.bytes
  | .leas i => 0x1B :: i.bytes
  | .bra rr => [0x20, rr]
  | .brn rr => [0x21, rr]
  | .bhi rr => [0x22, rr]
  | .bls rr => [0x23, rr]
  | .bcc rr => [0x24, rr]
  | .bcs rr => [0x25, rr]
  | .bne rr => [0x26, rr]
  | .beq rr => [0x27, rr]
  | .bvc rr => [0x28, rr]
  | .bvs rr => [0x29, rr]
  | .bpl rr => [0x2A, rr]
  | .bmi rr => [0x2B, rr]
  | .bge rr => [0x2C, rr]
  | .blt rr => [0x2D, rr]
  | .bgt rr => [0x2E, rr]
  | .ble rr => [0x2F, rr]
  | .bhs rr => [0x24, rr]
  | .blo rr => [0x25, rr]
  | .pulx => [0x30]
  | .puly => [0x31]
  | .pula => [0x32]
  | .pulb => [0x33]
  | .pshx => [0x34]
  | .pshy => [0x35]
  | .psha => [0x36]
  | .pshb => [0x37]
  | .pulc => [0x38]
  | .pshc => [0x39]
  | .puld => [0x3A]
  | .pshd => [0x3B]
  | .wavr => [0x3C]
  | .rts => [0x3D]
  | .wai => [0x3E]
  | .swi => [0x3F]
  | .nega => [0x40]
  | .coma => [0x41]
  | .inca => [0x42]
  | .deca => [0x43]
  | .lsra => [0x44]
  | .rola => [0x45]
  | .rora => [0x46]
  | .asra => [0x47]
  | .asla => [0x48]
  | .lsrd => [0x49]
  | .lsla => [0x48]
  | .call (.ext hhll pg) => 0x4A :: wordBytes hhll ++ [pg]
  | .call (.idx i pg) => 0x4B :: i.bytes ++ [pg]
  | .call (.ind i) => 0x4B :: i.bytes
  | .negb => [0x50]
  | .comb => [0x51]
  | .incb => [0x52]
  | .decb => [0x53]
  | .lsrb => [0x54]
  | .rolb => [0x55]
  | .rorb => [0x56]
  | .asrb => [0x57]
  | .aslb => [0x58]
  | .asld => [0x59]
  | .lslb => [0x58]
  | .lsld => [0x59]
  | .staa (.dir dd) => [0x5A, dd]
  | .staa (.ext hhll) => 0x7A :: wordBytes hhll
  | .staa (.idx i) => 0x6A :: i.bytes
  | .stab (.dir dd) => [0x5B, dd]
  | .stab (.ext hhll) => 0x7B :: wordBytes hhll
  | .stab (.idx i) => 0x6B :: i.bytes
  | .std (.dir dd) => [0x5C, dd]
  | .std (.ext hhll) => 0x7C :: wordBytes hhll
  | .std (.idx i) => 0x6C :: i.bytes
  | .sty (.dir dd) => [0x5D, dd]
  | .sty (.ext hhll) => 0x7D :: wordBytes hhll
  | .sty (.idx i) => 0x6D :: i.bytes
  | .stx (.dir dd) => [0x5E, dd]
  | .stx (.ext hhll) => 0x7E :: wordBytes hhll
  | .stx (.idx i) => 0x6E :: i.bytes
  | .sts (.dir dd) => [0x5F, dd]
  | .sts (.ext hhll) => 0x7F :: wordBytes hhll
  | .sts (.idx i) => 0x6F :: i.bytes
  | .neg (.ext hhll) => 0x70 :: wordBytes hhll
  | .neg (.idx i) => 0x60 :: i.bytes
  | .com (.ext hhll) => 0x71 :: wordBytes hhll
  | .com (.idx i) => 0x61 :: i.bytes
  | .inc (.ext hhll) => 0x72 :: wordBytes hhll
  | .inc (.idx i) => 0x62 :: i.bytes
  | .dec (.ext hhll) => 0x73 :: wordBytes hhll
  | .dec (.idx i) => 0x63 :: i.bytes
  | .lsr (.ext hhll) => 0x74 :: wordBytes hhll
  | .lsr (.idx i) => 0x64 :: i.bytes
  | .rol (.ext hhll) => 0x75 :: wordBytes hhll
  | .rol (.idx i) => 0x65 :: i.bytes
  | .ror (.ext hhll) => 0x76 :: wordBytes hhll
  | .ror (.idx i) => 0x66 :: i.bytes
  | .asr (.ext hhll) => 0x77 :: wordBytes hhll
  | .asr (.idx i) => 0x67 :: i.bytes
  | .asl (.ext hhll) => 0x78 :: wordBytes hhll
  | .asl (.idx i) => 0x68 :: i.bytes
  | .clr (.ext hhll) => 0x79 :: wordBytes hhll
  | .clr (.idx i) => 0x69 :: i.bytes
  | .lsl (.ext hhll) => 0x78 :: wordBytes hhll
  | .lsl (.idx i) => 0x68 :: i.bytes
  | .suba (.imm ii) => [0x80, ii]
  | .suba (.dir dd) => [0x90, dd]
  | .suba (.ext hhll) => 0xB0 :: wordBytes hhll
  | .suba (.idx i) => 0xA0 :: i.bytes
  | .cmpa (.imm ii) => [0x81, ii]
  | .cmpa (.dir dd) => [0x91, dd]
  | .cmpa (.ext hhll) => 0xB1 :: wordBytes hhll
  | .cmpa (.idx i) => 0xA1 :: i.bytes
  | .sbca (.imm ii) => [0x82, ii]
  | .sbca (.dir dd) => [0x92, dd]
  | .sbca (.ext hhll) => 0xB2 :: wordBytes hhll
  | .sbca (.idx i) => 0xA2 :: i.bytes
  | .subd (.imm jjkk) => 0x83 :: wordBytes jjkk
  | .subd (.dir dd) => [0x93, dd]
  | .subd (.ext hhll) => 0xB3 :: wordBytes hhll
  | .subd (.idx i) => 0xA3 :: i.bytes
  | .anda (.imm ii) => [0x84, ii]
  | .anda (.dir dd) => [0x94, dd]
  | .anda (.ext hhll) => 0xB4 :: wordBytes hhll
  | .anda (.idx i) => 0xA4 :: i.bytes
  | .bita (.imm ii) => [0x85, ii]
  | .bita (.dir dd) => [0x95, dd]
  | .bita (.ext hhll) => 0xB5 :: wordBytes hhll
  | .bita (.idx i) => 0xA5 :: i.bytes
  | .ldaa (.imm ii) => [0x86, ii]
  | .ldaa (.dir dd) => [0x96, dd]
  | .ldaa (.ext hhll) => 0xB6 :: wordBytes hhll
  | .ldaa (.idx i) => 0xA6 :: i.bytes
  | .eora (.imm ii) => [0x88, ii]
  | .eora (.dir dd) => [0x98, dd]
  | .eora (.ext hhll) => 0xB8 :: wordBytes hhll
  | .eora (.idx i) => 0xA8 :: i.bytes
  | .adca (.imm ii) => [0x89, ii]
  | .adca (.dir dd) => [0x99, dd]
  | .adca (.ext hhll) => 0xB9 :: wordBytes hhll
  | .adca (.idx i) => 0xA9 :: i.bytes
  | .oraa (.imm ii) => [0x8A, ii]
  | .oraa (.dir dd) => [0x9A, dd]
  | .oraa (.ext hhll) => 0xBA :: wordBytes hhll
  | .oraa (.idx i) => 0xAA :: i.bytes
  | .adda (.imm ii) => [0x8B, ii]
  | .adda (.dir dd) => [0x9B, dd]
  | .adda (.ext hhll) => 0xBB :: wordBytes hhll
  | .adda (.idx i) => 0xAB :: i.bytes
  | .cpd (.imm jjkk) => 0x8C :: wordBytes jjkk
  | .cpd (.dir dd) => [0x9C, dd]
  | .cpd (.ext hhll) => 0xBC :: wordBytes hhll
  | .cpd (.idx i) => 0xAC :: i.bytes
  | .cpy (.imm jjkk) => 0x8D :: wordBytes jjkk
  | .cpy (.dir dd) => [0x9D, dd]
  | .cpy (.ext hhll) => 0xBD :: wordBytes hhll
  | .cpy (.idx i) => 0xAD :: i.bytes
  | .cpx (.imm jjkk) => 0x8E :: wordBytes jjkk
  | .cpx (.dir dd) => [0x9E, dd]
  | .cpx (.ext hhll) => 0xBE :: wordBytes hhll
  | .cpx (.idx i) => 0xAE :: i.bytes
  | .cps (.imm jjkk) => 0x8F :: wordBytes jjkk
  | .cps (.dir dd) => [0x9F, dd]
  | .cps (.ext hhll) => 0xBF :: wordBytes hhll
  | .cps (.idx i) => 0xAF :: i.bytes
  | .subb (.imm ii) => [0xC0, ii]
  | .subb (.dir dd) => [0xD0, dd]
  | .subb (.ext hhll) => 0xF0 :: wordBytes hhll
  | .subb (.idx i) => 0xE0 :: i.bytes
  | .cmpb (.imm ii) => [0xC1, ii]
  | .cmpb (.dir dd) => [0xD1, dd]
  | .cmpb (.ext hhll) => 0xF1 :: wordBytes hhll
  | .cmpb (.idx i) => 0xE1 :: i.bytes
  | .sbcb (.imm ii) => [0xC2, ii]
  | .sbcb (.dir dd) => [0xD2, dd]
  | .sbcb (.ext hhll) => 0xF2 :: wordBytes hhll
  | .sbcb (.idx i) => 0xE2 :: i.bytes
  | .addd (.imm jjkk) => 0xC3 :: wordBytes jjkk
  | .addd (.dir dd) => [0xD3, dd]
  | .addd (.ext hhll) => 0xF3 :: wordBytes hhll
  | .addd (.idx i) => 0xE3 :: i.bytes
  | .andb (.imm ii) => [0xC4, ii]
  | .andb (.dir dd) => [0xD4, dd]
  | .andb (.ext hhll) => 0xF4 :: wordBytes hhll
  | .andb (.idx i) => 0xE4 :: i.bytes
  | .bitb (.imm ii) => [0xC5, ii]
  | .bitb (.dir dd) => [0xD5, dd]
  | .bitb (.ext hhll) => 0xF5 :: wordBytes hhll
  | .bitb (.idx i) => 0xE5 :: i.bytes
  | .ldab (.imm ii) => [0xC6, ii]
  | .ldab (.dir dd) => [0xD6, dd]
  | .ldab (.ext hhll) => 0xF6 :: wordBytes hhll
  | .ldab (.idx i) => 0xE6 :: i.bytes
  | .eorb (.imm ii) => [0xC8, ii]
  | .eorb (.dir dd) => [0xD8, dd]
  | .eorb (.ext hhll) => 0xF8 :: wordBytes hhll
  | .eorb (.idx i) => 0xE8 :: i.bytes
  | .adcb (.imm ii) => [0xC9, ii]
  | .adcb (.dir dd) => [0xD9, dd]
  | .adcb (.ext hhll) => 0xF9 :: wordBytes hhll
  | .adcb (.idx i) => 0xE9 :: i.bytes
  | .orab (.imm ii) => [0xCA, ii]
  | .orab (.dir dd) => [0xDA, dd]
  | .orab (.ext hhll) => 0xFA :: wordBytes hhll
  | .orab (.idx i) => 0xEA :: i.bytes
  | .addb (.imm ii) => [0xCB, ii]
  | .addb (.dir dd) => [0xDB, dd]
  | .addb (.ext hhll) => 0xFB :: wordBytes hhll
  | .addb (.idx i) => 0xEB :: i.bytes
  | .ldd (.imm jjkk) => 0xCC :: wordBytes jjkk
  | .ldd (.dir dd) => [0xDC, dd]
  | .ldd (.ext hhll) => 0xFC :: wordBytes hhll
  | .ldd (.idx i) => 0xEC :: i.bytes
  | .ldy (.imm jjkk) => 0xCD :: wordBytes jjkk
  | .ldy (.dir dd) => [0xDD, dd]
  | .ldy (.ext hhll) => 0xFD :: wordBytes hhll
  | .ldy (.idx i) => 0xED :: i.bytes
  | .ldx (.imm jjkk) => 0xCE :: wordBytes jjkk
  | .ldx (.dir dd) => [0xDE, dd]
  | .ldx (.ext hhll) => 0xFE :: wordBytes hhll
  | .ldx (.idx i) => 0xEE :: i.bytes
  | .lds (.imm jjkk) => 0xCF :: wordBytes jjkk
  | .lds (.dir dd) => [0xDF, dd]
  | .lds (.ext hhll) => 0xFF :: wordBytes hhll
  | .lds (.idx i) => 0xEF :: i.bytes
  | .clra => [0x87]
  | .tsta => [0x97]
  | .nop => [0xA7]
  | .tfr src dst => [0xB7, transferPostbyte false src dst]
  | .exg src dst => [0xB7, transferPostbyte true src dst]
  | .sex src dst => [0xB7, transferPostbyte false src.reg dst.reg]
  | .clrb => [0xC7]
  | .tstb => [0xD7]
  | .tst (.ext hhll) => 0xF7 :: wordBytes hhll
  | .tst (.idx i) => 0xE7 :: i.bytes
  | .abx => [0x1A, 0xE5]
  | .aby => [0x19, 0xED]
  | .clc => [0x10, 0xFE]
  | .cli => [0x10, 0xEF]
  | .clv => [0x10, 0xFD]
  | .sec => [0x14, 0x01]
  | .sei => [0x14, 0x10]
  | .sev => [0x14, 0x02]
  | .des => [0x1B, 0x9F]
  | .ins => [0x1B, 0x81]
  | .tap => [0xB7, 0x02]
  | .tpa => [0xB7, 0x20]
  | .tsx => [0xB7, 0x75]
  | .tsy => [0xB7, 0x76]
  | .txs => [0xB7, 0x57]
  | .tys => [0xB7, 0x67]
  | .xgdx => [0xB7, 0xC5]
  | .xgdy => [0xB7, 0xC6]
  | .movw (.imm v) (.idx i) => [0x18, 0x00] ++ i.bytes ++ wordBytes v
  | .movw (.ext v) (.idx i) => [0x18, 0x01] ++ i.bytes ++ wordBytes v
  | .movw (.idx i) (.idx j) => [0x18, 0x02] ++ i.bytes ++ j.bytes
  | .movw (.imm v) (.ext h) => [0x18, 0x03] ++ wordBytes v ++ wordBytes h
  | .movw (.ext v) (.ext h) => [0x18, 0x04] ++ wordBytes v ++ wordBytes h
  | .movw (.idx i) (.ext h) => [0x18, 0x05] ++ i.bytes ++ wordBytes h
  | .movb (.imm v) (.idx i) => [0x18, 0x08] ++ i.bytes ++ [v]
  | .movb (.ext v) (.idx i) => [0x18, 0x09] ++ i.bytes ++ wordBytes v
  | .movb (.idx i) (.idx j) => [0x18, 0x0A] ++ i.bytes ++ j.bytes
  | .movb (.imm v) (.ext h) => [0x18, 0x0B] ++ [v] ++ wordBytes h
  | .movb (.ext v) (.ext h) => [0x18, 0x0C] ++ wordBytes v ++ wordBytes h
  | .movb (.idx i) (.ext h) => [0x18, 0x0D] ++ i.bytes ++ wordBytes h
  | .aba => [0x18, 0x06]
  | .daa => [0x18, 0x07]
  | .tab => [0x18, 0x0E]
  | .tba => [0x18, 0x0F]
  | .idiv => [0x18, 0x10]
  | .fdiv => [0x18, 0x11]
  | .emacs hhll => [0x18, 0x12] ++ wordBytes hhll
  | .emuls => [0x18, 0x13]
  | .edivs => [0x18, 0x14]
  | .idivs => [0x18, 0x15]
  | .sba => [0x18, 0x16]
  | .cba => [0x18, 0x17]
  | .maxa i => [0x18, 0x18] ++ i.bytes
  | .mina i => [0x18, 0x19] ++ i.bytes
  | .emaxd i => [0x18, 0x1A] ++ i.bytes
  | .emind i => [0x18, 0x1B] ++ i.bytes
  | .maxm i => [0x18, 0x1C] ++ i.bytes
  | .minm i => [0x18, 0x1D] ++ i.bytes
  | .emaxm i => [0x18, 0x1E] ++ i.bytes
  | .eminm i => [0x18, 0x1F] ++ i.bytes
  | .lbra qqrr => [0x18, 0x20] ++ wordBytes qqrr
  | .lbrn qqrr => [0x18, 0x21] ++ wordBytes qqrr
  | .lbhi qqrr => [0x18, 0x22] ++ wordBytes qqrr
  | .lbls qqrr => [0x18, 0x23] ++ wordBytes qqrr
  | .lbcc qqrr => [0x18, 0x24] ++ wordBytes qqrr
  | .lbcs qqrr => [0x18, 0x25] ++ wordBytes qqrr
  | .lbne qqrr => [0x18, 0x26] ++ wordBytes qqrr
  | .lbeq qqrr => [0x18, 0x27] ++ wordBytes qqrr
  | .lbvc qqrr => [0x18, 0x28] ++ wordBytes qqrr
  | .lbvs qqrr => [0x18, 0x29] ++ wordBytes qqrr
  | .lbpl qqrr => [0x18, 0x2A] ++ wordBytes qqrr
  | .lbmi qqrr => [0x18, 0x2B] ++ wordBytes qqrr
  | .lbge qqrr => [0x18, 0x2C] ++ wordBytes qqrr
  | .lblt qqrr => [0x18, 0x2D] ++ wordBytes qqrr
  | .lbgt qqrr => [0x18, 0x2E] ++ wordBytes qqrr
  | .lble qqrr => [0x18, 0x2F] ++ wordBytes qqrr
  | .lbhs qqrr => [0x18, 0x24] ++ wordBytes qqrr
  | .lblo qqrr => [0x18, 0x25] ++ wordBytes qqrr
  | .rev => [0x18, 0x3A]
  | .revw => [0x18, 0x3B]
  | .wav => [0x18, 0x3C]
  | .tbl i => [0x18, 0x3D] ++ i.bytes
  | .stop => [0x18, 0x3E]
  | .etbl i => [0x18, 0x3F] ++ i.bytes
  | .trap tn => [0x18, tn]

/-- The bytes of a number of `k` bytes, the most significant first. -/
def bytesBE : Nat → Nat → List Byte
  | 0, _ => []
  | k + 1, w => BitVec.ofNat 8 (w / 256 ^ k) :: bytesBE k w

/-- The bytes of the longest instruction, six (30_encoding.md R92), of which the first are those of a row of
spec/opcode_table.json: the table writes a row's bits over its first bytes, first byte most significant; bytes the row does
not give are 0. DEDUCED (log 6). -/
def tableWordBytes (nbits w : Nat) : List Byte :=
  (bytesBE (nbits / 8) w ++ List.replicate 6 0).take 6

/-- The instruction the decoder reads from a row's bits. -/
def decodeTableWord (nbits w : Nat) : Option Instr :=
  match decode (tableWordBytes nbits w) with
  | .ok (i, _) => some i
  | .error _ => none

end Sys2Proof
end

