-- ==== Sys2Proof/Machine/Memory.lean ====
section
/-! DEFINITION. Memory as plain data: (key, byte) pairs, keys strictly rising, no entry equal to what an unlisted key reads
as. A key is a physical byte of 20_memory.md R72: below $10000 the base map, from $10000 on the program pages. -/

namespace Sys2Proof.Machine

/-- The bytes that differ from what an unlisted byte reads as. -/
abbrev Memory := List Host.Cell

/-- What a byte that nothing has written reads as. The spec gives no contents of RAM after power-on (70_reset_and_hazards.md
R552) and none of the vectors: DESIGN CHOICE, unsafe (log 2). -/
def Memory.unlisted : Byte := 0

/-- `mem[k]` (20_memory.md R62). -/
def Memory.read : Memory → Nat → Byte
  | [], _ => Memory.unlisted
  | (a, v) :: rest, k => if a = k then v else Memory.read rest k

/-- `mem[k] <- v`; writing what an unlisted byte reads as removes the entry. -/
def Memory.write : Memory → Nat → Byte → Memory
  | [], k, v => if v = Memory.unlisted then [] else [(k, v)]
  | (a, w) :: rest, k, v =>
    if k < a then (if v = Memory.unlisted then (a, w) :: rest else (k, v) :: (a, w) :: rest)
    else if k = a then (if v = Memory.unlisted then rest else (k, v) :: rest)
    else (a, w) :: Memory.write rest k v

/-- The keys rise strictly. -/
def Memory.rising : Memory → Bool
  | [] => true
  | [_] => true
  | c :: d :: rest => decide (c.1 < d.1) && Memory.rising (d :: rest)

/-- The canonical form. -/
def Memory.wf (m : Memory) : Bool := Memory.rising m && m.all (fun c => c.2 != Memory.unlisted)

end Sys2Proof.Machine
end

