-- ==== Sys2Proof/Machine/State.lean ====
section
/-! DEFINITION. The state of the machine: every element 10_state.md gives it, the device parameters of 00_scope.md R7 as
data, the environment inputs of 10_state.md R38 as data, and four fields of the model's own. -/

namespace Sys2Proof.Machine

/-- The condition code register, bit 7 to bit 0 `S X H I N Z V C` (10_state.md R25). All eight bits exist. -/
structure Ccr where
  s : Bool
  x : Bool
  h : Bool
  i : Bool
  n : Bool
  z : Bool
  v : Bool
  c : Bool
  deriving DecidableEq, Repr

/-- The run state (10_state.md R37). -/
inductive RunState where
  /-- RUNNING: fetching and executing instructions. -/
  | running
  /-- WAIT: after WAI, context stacked. -/
  | wait
  /-- STOPPED: after STOP with S = 0, context stacked. -/
  | stopped
  /-- BDM_ACTIVE: executing BDM firmware, outside the spec. -/
  | bdmActive
  deriving DecidableEq, Repr

/-- The vector of an I-maskable source, by its index in the vector table: $FF00 + 2n, from $FF00 to the IRQ pin's $FFF2
(20_memory.md R69, 60_exceptions.md R505, R515). -/
abbrev IrqVector := Fin 122

/-- An I-maskable source of the device and its vector; the number tells the device's sources apart (00_scope.md R7,
92_eei_decisions.md D18). -/
structure IrqSource where
  number : Nat
  vector : IrqVector
  deriving DecidableEq, Repr

/-- The IRQ pin, vector $FFF2 (60_exceptions.md R514). -/
def irqPin : IrqSource := { number := 0, vector := 121 }

/-- What the memory map says of a range that is not plain storage (20_memory.md R71). -/
inductive RegionKind where
  /-- Read-only memory: a write has no effect. -/
  | rom
  /-- No memory: a write has no effect, a read gives the device's value. -/
  | unimplemented (readsAs : Byte)
  /-- A device register: what a read answers and what a write does is the device's (20_memory.md R65, R70). -/
  | register
  deriving DecidableEq, Repr

/-- A range of physical bytes of one kind (parameter MEM_MAP, 92_eei_decisions.md D6). -/
structure Region where
  base : Nat
  size : Nat
  kind : RegionKind
  deriving DecidableEq, Repr

/-- A range of physical bytes that are other names of the bytes from `target` on: how page numbers alias the unpaged regions
(part of MEM_MAP, 92_eei_decisions.md D7). -/
structure Alias where
  base : Nat
  size : Nat
  target : Nat
  deriving DecidableEq, Repr

/-- The parameters the spec leaves to the device (00_scope.md R7). No step changes them. -/
structure Device where
  /-- HAS_EXPANDED_MEMORY (20_memory.md R72). -/
  hasExpandedMemory : Bool
  /-- PPAGE_IMPLEMENTED_BITS (20_memory.md R72). -/
  ppageBits : Byte
  /-- The device-defined address at which PPAGE is memory-mapped (10_state.md R35, 20_memory.md R72). -/
  ppageAddr : Option Word
  /-- MEM_MAP: the ranges that are not plain storage. -/
  regions : List Region
  /-- MEM_MAP: the physical bytes that are other names of bytes elsewhere (92_eei_decisions.md D7). -/
  aliases : List Alias
  /-- IRQ_SOURCES: the device's I-maskable sources, each with its vector (60_exceptions.md R505, 92_eei_decisions.md D18). -/
  irqSources : List IrqSource
  /-- The number of the source of IRQ_SOURCES that the device promotes, if any (60_exceptions.md R510). -/
  promoted : Option Nat
  /-- STOP_WAKE: the numbers of the I-maskable sources able to end STOP (60_exceptions.md R521). -/
  stopWake : List Nat
  /-- BDM_ENABLED (47_system.md R494). -/
  bdmEnabled : Bool
  deriving DecidableEq, Repr

/-- The sources of a reset (10_state.md R38; power-on reset and the RESET pin share one vector). -/
inductive ResetSource where
  | pin | clockMonitor | cop
  deriving DecidableEq, Repr

/-- One change the BDM host makes while active background debug mode lasts: to a register, to `i_delay`, to a physical byte of
memory or to the devices (60_exceptions.md R535, 92_eei_decisions.md D17, U21). A write of TMP2 moves the address at which
execution resumes. -/
inductive BdmWrite where
  | a (v : Byte) | b (v : Byte) | x (v : Word) | y (v : Word) | sp (v : Word) | ccr (v : Byte)
  | tmp1 (v : Word) | tmp2 (v : Word) | tmp3 (v : Word) | ppage (v : Byte) | iDelay (v : Bool)
  | memory (key : Nat) (v : Byte) | devices (v : Nat)
  deriving DecidableEq, Repr

/-- What the environment presents at one boundary (10_state.md R38, 60_exceptions.md R503, R535). -/
structure Inputs where
  /-- `reset_req`: power-on reset or the RESET pin. -/
  resetPin : Bool := false
  /-- `reset_req`: clock monitor. -/
  clockMonitor : Bool := false
  /-- `reset_req`: COP watchdog. -/
  cop : Bool := false
  /-- `xirq_req`: the level of the XIRQ pin. -/
  xirq : Bool := false
  /-- `irq_req`: the numbers of the I-maskable sources requesting. A number that IRQ_SOURCES does not hold requests nothing
  (log 35). -/
  irq : List Nat := []
  /-- `tag_hit(pc)`. -/
  tag : Bool := false
  /-- The BDM firmware returns to the user program (60_exceptions.md R535). -/
  bdmExit : Bool := false
  /-- What the BDM host changes, in order, while active background debug mode lasts (60_exceptions.md R535). -/
  bdmWrites : List BdmWrite := []
  /-- `reset_req` in the middle of what starts at this boundary, after this many of its byte writes
  (70_reset_and_hazards.md R551). -/
  lateReset : Option (ResetSource × Nat) := none
  deriving DecidableEq, Repr

/-- Why a step stops with a fault: nothing does. The CPU12 has no access fault, no privilege violation and no other event
that stops it (60_exceptions.md R500, R502; 20_memory.md R71). Safe: an empty type claims no stop. -/
inductive Fault where
  deriving DecidableEq, Repr

/-- Why a step is refused. -/
inductive Refusal where
  /-- No meaning written for the instruction. Raised by a refused arm of `exec`. Safe. -/
  | notModelled (mnemonic : String)
  /-- A loop postbyte with bits 7:6 = 11 (30_encoding.md R114, U3). Raised by `execUnassignedLoopPostbyte`. Safe. -/
  | loopPostbyteUnassigned
  /-- The bytes stand for no instruction the spec gives a meaning (U3, U5). Raised by `step` and by the prebyte. Safe. -/
  | undecodable (e : DecodeError)
  deriving DecidableEq, Repr

/-- The state. `inputs` is the environment's future: one sample is consumed at each boundary, and an empty list is quiet
(log 4). `tmp2Known`, `tmp3Known`, `freeIdx` and `writeLimit` are the model's own (log 7, log 8, log 10). -/
structure State where
  /-- Accumulator A (10_state.md R21). -/
  a : Byte
  /-- Accumulator B (R21). -/
  b : Byte
  /-- Index register X (R22). -/
  x : Word
  /-- Index register Y (R22). -/
  y : Word
  /-- Stack pointer (R23). -/
  sp : Word
  /-- Program counter (R24). -/
  pc : Word
  /-- Condition code register (R25). -/
  ccr : Ccr
  /-- Temporary register TMP1 (R34). -/
  tmp1 : Word
  /-- Temporary register TMP2 (R34). -/
  tmp2 : Word
  /-- Temporary register TMP3 (R34). -/
  tmp3 : Word
  /-- Program page register (R35). -/
  ppage : Byte
  /-- I-clear delay latch `i_delay` (R36). -/
  iDelay : Bool
  /-- The next element of a rule list, read ahead by REV or REVW before the fuzzy output is written
  (44_fuzzy_minmax_table.md R344(d), R346(e)). -/
  ruleAhead : Option Word
  /-- Run state (R37). -/
  run : RunState
  /-- The whole of memory (20_memory.md R60, R72). -/
  mem : Memory
  /-- The state of the memory-mapped devices, as a number (00_scope.md R5(b), 20_memory.md R65, R70). -/
  devices : Nat
  /-- Device parameters (00_scope.md R7). -/
  dev : Device
  /-- Environment inputs still to come (R38). -/
  inputs : List Inputs
  /-- Model's own: the rule of the last instruction states the value in TMP2 (R34). -/
  tmp2Known : Bool
  /-- Model's own: the rule of the last instruction states the value in TMP3 (R34). -/
  tmp3Known : Bool
  /-- Model's own: the number of free values drawn. -/
  freeIdx : Nat
  /-- Model's own: how many byte writes are left before a reset cuts the instruction short; `none` without one (R551). -/
  writeLimit : Option Nat
  deriving DecidableEq, Repr

/-- A device with nothing but storage: no expanded memory, BDM disabled (92_eei_decisions.md D17), the IRQ pin its only
I-maskable source and the only one to end STOP (D19). DESIGN CHOICE where the spec states no default (log 3). -/
def Device.default : Device :=
  { hasExpandedMemory := false, ppageBits := 0xFF, ppageAddr := none, regions := [], aliases := [],
    irqSources := [irqPin], promoted := none, stopWake := [irqPin.number], bdmEnabled := false }

/-- The machine right after reset: S = X = I = 1, PC from the vector at $FFFE, RUNNING, `i_delay` 0 (10_state.md R40). The
registers for which the spec gives no value (R41) and the devices' state (R552) hold 0: DESIGN CHOICE, unsafe (log 1). -/
def State.reset : State :=
  { a := 0, b := 0, x := 0, y := 0, sp := 0
    pc := word (Memory.read [] 0xFFFE) (Memory.read [] 0xFFFF)
    ccr := { s := true, x := true, h := false, i := true, n := false, z := false, v := false, c := false }
    tmp1 := 0, tmp2 := 0, tmp3 := 0, ppage := 0
    iDelay := false, ruleAhead := none, run := .running, mem := [], devices := 0, dev := Device.default, inputs := []
    tmp2Known := false, tmp3Known := false, freeIdx := 0, writeLimit := none }

end Sys2Proof.Machine

/-- The devices' state after a step: what the machine was when the step began, the bytes it fetched among it, and the devices'
state its reads and writes left, decide it. DESIGN CHOICE (log 30). -/
opaque Sys2Proof.Config.deviceElapse : Sys2Proof.Machine.State → Nat → Nat
end

