-- ==== Sys2Proof/Machine/Flags.lean ====
section
/-! DEFINITION. The condition code register as a byte, its one writer from data, and the flag helpers of 00_scope.md R10. -/

namespace Sys2Proof.Machine

/-- `r[CCR]`, the byte `S X H I N Z V C` (10_state.md R25). -/
def Ccr.toByte (c : Ccr) : Byte :=
  BitVec.ofBool c.s ++ BitVec.ofBool c.x ++ BitVec.ofBool c.h ++ BitVec.ofBool c.i ++
    BitVec.ofBool c.n ++ BitVec.ofBool c.z ++ BitVec.ofBool c.v ++ BitVec.ofBool c.c

/-- The register whose byte is `v` (10_state.md R25). -/
def Ccr.ofByte (v : Byte) : Ccr :=
  { s := v.getLsbD 7, x := v.getLsbD 6, h := v.getLsbD 5, i := v.getLsbD 4,
    n := v.getLsbD 3, z := v.getLsbD 2, v := v.getLsbD 1, c := v.getLsbD 0 }

/-- `write_ccr(v)`: all bits from data, but X can go only from 1 to 0 (10_state.md R27). -/
def Ccr.write (c : Ccr) (v : Byte) : Ccr := { Ccr.ofByte v with x := c.x && v.getLsbD 6 }

/-- The masks after an exception other than reset: I set, and X too for an XIRQ (60_exceptions.md R509). -/
def Ccr.mask (c : Ccr) (setX : Bool) : Ccr := { c with i := true, x := c.x || setX }

/-- What `add_n` and `sub_n` return (00_scope.md R10). -/
structure Alu (w : Nat) where
  res : BitVec w
  h : Bool
  n : Bool
  z : Bool
  v : Bool
  c : Bool
  deriving DecidableEq, Repr

/-- `add_n(a, b, cin)` (00_scope.md R10). -/
def addFlags {w : Nat} (a b : BitVec w) (cin : Bool) : Alu w :=
  let full := a.toNat + b.toNat + cin.toNat
  let res := BitVec.ofNat w full
  { res := res
    h := decide (16 ≤ a.toNat % 16 + b.toNat % 16 + cin.toNat)
    n := res.msb
    z := res == 0
    v := a.msb == b.msb && res.msb != a.msb
    c := decide (2 ^ w ≤ full) }

/-- `sub_n(a, b, bin)` (00_scope.md R10); it defines no half carry, and `h` is not used. -/
def subFlags {w : Nat} (a b : BitVec w) (bin : Bool) : Alu w :=
  let res := a - b - (BitVec.ofBool bin).setWidth w
  { res := res
    h := false
    n := res.msb
    z := res == 0
    v := a.msb != b.msb && res.msb != a.msb
    c := decide (a.toNat < b.toNat + bin.toNat) }

/-- N, Z, V, C from an operation; the other bits kept. -/
def Ccr.nzvc {w : Nat} (c : Ccr) (r : Alu w) : Ccr := { c with n := r.n, z := r.z, v := r.v, c := r.c }

/-- H, N, Z, V, C from an operation; the other bits kept. -/
def Ccr.hnzvc {w : Nat} (c : Ccr) (r : Alu w) : Ccr :=
  { c with h := r.h, n := r.n, z := r.z, v := r.v, c := r.c }

/-- N and Z from a value (10_state.md R30, R31). -/
def Ccr.nz {w : Nat} (c : Ccr) (v : BitVec w) : Ccr := { c with n := v.msb, z := v == 0 }

/-- N and Z from a value, V cleared: loads, stores, logic. -/
def Ccr.nzv0 {w : Nat} (c : Ccr) (v : BitVec w) : Ccr := { c.nz v with v := false }

/-- N, Z, V and C as given: shifts, increments, divides. -/
def Ccr.setNzvc (c : Ccr) (n z v k : Bool) : Ccr := { c with n := n, z := z, v := v, c := k }

end Sys2Proof.Machine
end

