-- ==== Sys2Proof/Machine/Ops.lean ====
section
/-! DEFINITION. The named operations: memory through the PPAGE window, the stack, the free values, recognising a request,
taking an exception and returning from one. -/

namespace Sys2Proof.Machine

/-! ### Registers -/

/-- `r[D] = r[A] : r[B]` (10_state.md R21). -/
def State.d (s : State) : Word := word s.a s.b

/-- `r[D] <- v` (10_state.md R21). -/
def State.setD (s : State) (v : Word) : State := { s with a := hiByte v, b := loByte v }

/-- `r[CCR] <- v` through `write_ccr` (10_state.md R27). -/
def State.writeCcr (s : State) (v : Byte) : State := { s with ccr := s.ccr.write v }

/-! ### Memory -/

/-- `phys(a)` as one number: the base map below $10000, page `p` of the program memory from $10000 + p × $4000
(20_memory.md R72; the numbering is log 31). -/
def State.mapKey (s : State) (a : Word) : Nat :=
  if s.dev.hasExpandedMemory && decide (0x8000 ≤ a.toNat) && decide (a.toNat < 0xC000) then
    0x10000 + (s.ppage &&& s.dev.ppageBits).toNat * 0x4000 + (a.toNat - 0x8000)
  else a.toNat

/-- The byte a physical byte is another name of, or itself: the aliases of MEM_MAP (92_eei_decisions.md D7). -/
def Device.resolve (d : Device) (k : Nat) : Nat :=
  match d.aliases.find? fun r => decide (r.base ≤ k) && decide (k < r.base + r.size) with
  | some r => r.target + (k - r.base)
  | none => k

/-- The physical byte address `a` reaches (20_memory.md R72, 92_eei_decisions.md D7). -/
def State.physKey (s : State) (a : Word) : Nat := s.dev.resolve (s.mapKey a)

/-- What MEM_MAP says of a physical byte; `none` is plain storage (20_memory.md R71). -/
def Device.kindAt (d : Device) (k : Nat) : Option RegionKind :=
  (d.regions.find? fun r => decide (r.base ≤ k) && decide (k < r.base + r.size)).map fun r => r.kind

/-- The byte `MemRead(a, 1)` returns (20_memory.md R62, R71, R72). PPAGE at its memory-mapped address reads back all eight
bits as last written; whether a device returns the unimplemented ones so is not in the source (R72): DESIGN CHOICE (log 40).
-/
def State.readByte (s : State) (a : Word) : Byte :=
  if s.dev.ppageAddr = some a then s.ppage
  else
    match s.dev.kindAt (s.physKey a) with
    | some (.unimplemented v) => v
    | some .register => Config.deviceRead s.devices (s.physKey a)
    | _ => s.mem.read (s.physKey a)

/-- The devices' state after `MemRead(a, 1)`: only the read of a device register can change it (20_memory.md R65, R70;
log 30). -/
def State.afterRead (s : State) (a : Word) : Nat :=
  if s.dev.ppageAddr = some a then s.devices
  else
    match s.dev.kindAt (s.physKey a) with
    | some .register => Config.deviceAfterRead s.devices (s.physKey a)
    | _ => s.devices

/-- The state after `MemRead(a, 1)`: what the next access of the same instruction meets (20_memory.md R65). -/
def State.touch (s : State) (a : Word) : State := { s with devices := s.afterRead a }

/-- The state after `MemRead(a, 2)`: two byte reads in ascending address order (20_memory.md R62, R64). -/
def State.touchWord (s : State) (a : Word) : State := (s.touch a).touch (a + 1)

/-- A byte write that reaches memory: PPAGE, a device register, storage, or nothing (20_memory.md R62, R70, R71, R72). -/
def State.storeByte (s : State) (a : Word) (v : Byte) : State :=
  if s.dev.ppageAddr = some a then { s with ppage := v }
  else
    match s.dev.kindAt (s.physKey a) with
    | some .register => { s with devices := Config.deviceWrite s.devices (s.physKey a) v }
    | some _ => s
    | none => { s with mem := s.mem.write (s.physKey a) v }

/-- `MemWrite(a, 1, v)` (20_memory.md R62). A write that a reset has cut off does not happen (70_reset_and_hazards.md
R551). -/
def State.writeByte (s : State) (a : Word) (v : Byte) : State :=
  match s.writeLimit with
  | none => s.storeByte a v
  | some 0 => s
  | some (n + 1) => { s with writeLimit := some n }.storeByte a v

/-- The word `MemRead(a, 2)` returns, each byte address mod 2^16 (20_memory.md R62), the byte at `a` read first (R64). -/
def State.readWord (s : State) (a : Word) : Word := word (s.readByte a) ((s.touch a).readByte (a + 1))

/-- `MemWrite(a, 2, v)`, high byte at `a` (20_memory.md R62), bytes in ascending address order (R64). -/
def State.writeWord (s : State) (a : Word) (v : Word) : State :=
  (s.writeByte a (hiByte v)).writeByte (a + 1) (loByte v)

/-! ### Stack -/

/-- `push8(v)` (20_memory.md R66). -/
def State.push8 (s : State) (v : Byte) : State :=
  let sp := s.sp - 1
  { s with sp := sp }.writeByte sp v

/-- `push16(v)` (20_memory.md R66). -/
def State.push16 (s : State) (v : Word) : State :=
  let sp := s.sp - 2
  { s with sp := sp }.writeWord sp v

/-- The byte `pull8()` returns (20_memory.md R66). -/
def State.top8 (s : State) : Byte := s.readByte s.sp

/-- The word `pull16()` returns (20_memory.md R66). -/
def State.top16 (s : State) : Word := s.readWord s.sp

/-- The state after `pull8()`: the read, then SP one up (20_memory.md R66). -/
def State.pulled8 (s : State) : State := { s.touch s.sp with sp := s.sp + 1 }

/-- The state after `pull16()`: the read, then SP two up (20_memory.md R66). -/
def State.pulled16 (s : State) : State := { s.touchWord s.sp with sp := s.sp + 2 }

/-! ### Free values (93_implementation_defined.md U1, U2, U8, U13, U14; log 7) -/

/-- The `k`-th free bit from here. -/
def State.freeBit (s : State) (k : Nat) : Bool := Config.freeBit (s.freeIdx + k)

/-- The `k`-th free byte from here. -/
def State.freeByte (s : State) (k : Nat) : Byte := Config.freeByte (s.freeIdx + k)

/-- The `k`-th free word from here. -/
def State.freeWord (s : State) (k : Nat) : Word := Config.freeWord (s.freeIdx + k)

/-- `n` free values have been used. -/
def State.drew (s : State) (n : Nat) : State := { s with freeIdx := s.freeIdx + n }

/-- TMP2 or TMP3 as a program can read it: its value where the rule of the last instruction states one, else a free word
(10_state.md R34, 92_eei_decisions.md D3; log 8). -/
def State.tmp3Value (s : State) : Word := if s.tmp3Known then s.tmp3 else s.freeWord 0

@[inherit_doc State.tmp3Value]
def State.tmp2Value (s : State) : Word := if s.tmp2Known then s.tmp2 else s.freeWord 1

/-- Neither TMP2 nor TMP3 holds a value that a rule states (10_state.md R34). -/
def State.forgetTmp (s : State) : State := { s with tmp2Known := false, tmp3Known := false }

/-! ### Environment (10_state.md R38) -/

/-- The environment at the next boundary; nothing is requested when the list has run out (log 4). -/
def State.input (s : State) : Inputs := s.inputs.headD {}

/-- The devices have seen the step from `s` to `t` pass (20_memory.md R65, R70; log 30). Without a device register there is
nothing to see. -/
def State.elapse (s t : State) : State :=
  if s.dev.regions.any fun r => decide (r.kind = .register) then { t with devices := Config.deviceElapse s t.devices }
  else t

/-- The boundary has passed. -/
def State.popInput (s : State) : State := { s with inputs := s.inputs.tail }

/-- The vector of the reset source of highest priority (60_exceptions.md R510, 70_reset_and_hazards.md R551). -/
def Inputs.resetVector (q : Inputs) : Option Word :=
  if q.resetPin then some 0xFFFE
  else if q.clockMonitor then some 0xFFFC
  else if q.cop then some 0xFFFA
  else none

/-- The reset that arrives in the middle of what starts at this boundary; a reset at the boundary itself leaves nothing to
cut short. -/
def Inputs.late (q : Inputs) : Option (ResetSource × Nat) := if q.resetVector.isSome then none else q.lateReset

/-- The vector of a reset source (70_reset_and_hazards.md R551). -/
def ResetSource.vector : ResetSource → Word
  | .pin => 0xFFFE
  | .clockMonitor => 0xFFFC
  | .cop => 0xFFFA

/-- The vector address of an I-maskable source (60_exceptions.md R505). -/
def IrqSource.address (n : IrqSource) : Word := BitVec.ofNat 16 (0xFF00 + 2 * n.vector.val)

/-- `irq_req` as a set of the device's sources: the members of IRQ_SOURCES that the sample names (10_state.md R38,
92_eei_decisions.md D18). -/
def State.irqRequests (s : State) (q : Inputs) : List IrqSource := s.dev.irqSources.filter fun n => q.irq.contains n.number

/-- The member with the highest vector address, the default priority (60_exceptions.md R510). -/
def highestIrq : List IrqSource → Option IrqSource
  | [] => none
  | n :: rest =>
    match highestIrq rest with
    | none => some n
    | some m => some (if n.vector < m.vector then m else n)

/-- The member of highest priority: the promoted source first (60_exceptions.md R510, 92_eei_decisions.md D18). -/
def selectIrq (promoted : Option Nat) (l : List IrqSource) : Option IrqSource :=
  match l.find? fun n => promoted == some n.number with
  | some p => some p
  | none => highestIrq l

/-- One selected request: the address of its vector and whether it is XIRQ (60_exceptions.md R505). -/
structure Request where
  vector : Word
  isXirq : Bool
  deriving DecidableEq, Repr

/-- `interrupt_pending()` (60_exceptions.md R505). -/
def State.interruptPending (s : State) (q : Inputs) : Option Request :=
  if q.xirq && !s.ccr.x then some ⟨0xFFF4, true⟩
  else if !s.ccr.i && !s.iDelay then (selectIrq s.dev.promoted (s.irqRequests q)).map fun n => ⟨n.address, false⟩
  else none

/-! ### Exceptions -/

/-- `stack_frame(ret)`: return address, Y, X, B : A, CCR (60_exceptions.md R508). -/
def State.stackFrame (s : State) (ret : Word) : State :=
  ((((s.push16 ret).push16 s.y).push16 s.x).push16 (word s.b s.a)).push8 s.ccr.toByte

/-- Leaving for a handler whose frame is on the stack: the masks set, `i_delay` 0, RUNNING, the PC at `target`
(60_exceptions.md R506, R520). Whether TMP2 and TMP3 still hold a value that a rule states (10_state.md R34,
92_eei_decisions.md D3) when a handler is entered in between, WAV's interrupt exit (44_fuzzy_minmax_table.md R352) included, is
not in the spec; the handler's first instruction finds neither stated: DESIGN CHOICE, safe (log 8). -/
def State.enterHandler (s : State) (target : Word) (setX : Bool) : State :=
  { s with ccr := s.ccr.mask setX, iDelay := false, run := .running, pc := target,
           tmp2Known := false, tmp3Known := false, ruleAhead := none }

/-- `exception_entry(vector, ret, set_x)`: the vector is read before anything is stacked (60_exceptions.md R506). -/
def State.exceptionEntry (s : State) (vector ret : Word) (setX : Bool) : State :=
  ((s.touchWord vector).stackFrame ret).enterHandler (s.readWord vector) setX

/-- The wake-up of WAIT, and of STOPPED by an interrupt: the vector, no stacking (60_exceptions.md R520, R521). -/
def State.wake (s : State) (q : Request) : State :=
  (s.touchWord q.vector).enterHandler (s.readWord q.vector) q.isXirq

/-- The reset sequence (70_reset_and_hazards.md R551): S = X = I = 1, `i_delay` 0, RUNNING, PC from the vector, nothing
stacked, memory unchanged. The registers whose value after a reset is unspecified (R552, 92_eei_decisions.md D20) take free
values (log 9). -/
def State.takeReset (s : State) (vector : Word) : State :=
  { s.touchWord vector with
    a := s.freeByte 0, b := s.freeByte 1, ppage := s.freeByte 2
    x := s.freeWord 0, y := s.freeWord 1, sp := s.freeWord 2
    tmp1 := s.freeWord 3, tmp2 := s.freeWord 4, tmp3 := s.freeWord 5
    ccr := { s := true, x := true, h := s.freeBit 0, i := true, n := s.freeBit 1, z := s.freeBit 2,
             v := s.freeBit 3, c := s.freeBit 4 }
    iDelay := false, run := .running, pc := s.readWord vector
    tmp2Known := false, tmp3Known := false, ruleAhead := none, freeIdx := s.freeIdx + 6 }

/-- A reset has cut short what led to `s`: part of its writes has happened, and the reset sequence follows (R551). -/
def State.abandon (s : State) (r : ResetSource) : State := { s with writeLimit := none }.takeReset r.vector

/-- `f`, or as much of its writing as a reset in the middle of it lets happen, and that reset (R551). -/
def State.cutShort (s : State) (late : Option (ResetSource × Nat)) (f : State → State) : State :=
  match late with
  | none => f s
  | some (r, n) => (f { s with writeLimit := some n }).abandon r

/-- RTI: the frame is pulled, the return address before Y (47_system.md R483); if the restored CCR enables a request that the
next boundary presents, SP goes back to the frame and its handler is entered with nothing stacked (R484). -/
def State.returnFromInterrupt (s : State) : State :=
  let sp0 := s.sp
  let t := (s.touch sp0).writeCcr (s.readByte sp0)
  let ba := t.readWord (sp0 + 1)
  let u := { t.touchWord (sp0 + 1) with b := hiByte ba, a := loByte ba }
  let v := { u.touchWord (sp0 + 3) with x := u.readWord (sp0 + 3) }
  let ret := v.readWord (sp0 + 7)
  let w := v.touchWord (sp0 + 7)
  let z := { w.touchWord (sp0 + 5) with y := w.readWord (sp0 + 5), sp := sp0 + 9 }
  match z.interruptPending z.input with
  | some q => { z.touchWord q.vector with pc := z.readWord q.vector, sp := z.sp - 9, ccr := z.ccr.mask q.isXirq }
  | none => { z with pc := ret }

end Sys2Proof.Machine
end

