-- ==== Sys2Proof/Machine/Operands.lean ====
section
/-! DEFINITION. The operand forms (30_encoding.md R93 to R111): for each its length, its effective address, the register it
adjusts and the value it fetches. An address is formed from the registers as the instruction finds them, its pointer read
where it has one, and the adjustment made, before the instruction reads its operand and its own source registers (R109;
log 14). -/

namespace Sys2Proof

open Sys2Proof.Machine

/-- `npc` of an instruction of `n` bytes (10_state.md R24). -/
def Machine.State.npc (s : State) (n : Nat) : Word := s.pc + BitVec.ofNat 16 n

/-- The value of a base register; PC as a base is `npc` (30_encoding.md R100, R108). -/
def BaseReg.value (r : BaseReg) (npc : Word) (s : State) : Word :=
  match r with
  | .x => s.x
  | .y => s.y
  | .sp => s.sp
  | .pc => npc

/-- The value of the register an auto form names. -/
def AutoReg.value (r : AutoReg) (s : State) : Word :=
  match r with
  | .x => s.x
  | .y => s.y
  | .sp => s.sp

/-- The register an auto form names receives a value. -/
def AutoReg.set (r : AutoReg) (v : Word) (s : State) : State :=
  match r with
  | .x => { s with x := v }
  | .y => { s with y := v }
  | .sp => { s with sp := v }

/-- The unsigned offset in an accumulator (30_encoding.md R106). -/
def AccReg.offset (k : AccReg) (s : State) : Word :=
  match k with
  | .a => zext8 s.a
  | .b => zext8 s.b
  | .d => s.d

/-- The adjustment `adj`: 0000 to 0111 are +1 to +8, 1000 to 1111 are -8 to -1 (30_encoding.md R105). -/
def autoAdjust (n : BitVec 4) : Word :=
  if n.msb then n.signExtend 16 else n.setWidth 16 + 1

/-- `EA` of an indexed operand, from the registers as the instruction finds them (30_encoding.md R100 to R107). -/
def Idx.ea (i : Idx) (npc : Word) (s : State) : Word :=
  match i with
  | .off5 r n => r.value npc s + sext5 n
  | .auto r post n => if post then r.value s else r.value s + autoAdjust n
  | .acc r k => r.value npc s + k.offset s
  | .off9 r n => r.value npc s + sext9 n
  | .off16 r n => r.value npc s + n
  | .ind16 r n => s.readWord (r.value npc s + n)
  | .indD r => s.readWord (r.value npc s + s.d)

/-- `ptr`, the address of the pointer of an indirect form (30_encoding.md R104, R107); a form with no pointer answers its
own address. -/
def Idx.pointer (i : Idx) (npc : Word) (s : State) : Word :=
  match i with
  | .ind16 r n => r.value npc s + n
  | .indD r => r.value npc s + s.d
  | _ => i.ea npc s

/-- The state after the effective address is formed: the register of an auto form adjusted (30_encoding.md R105), the pointer
of an indirect form read (R104, R107; 20_memory.md R65). -/
def Idx.side (i : Idx) (npc : Word) (s : State) : State :=
  match i with
  | .auto r _ n => r.set (r.value s + autoAdjust n) s
  | .ind16 r n => s.touchWord (r.value npc s + n)
  | .indD r => s.touchWord (r.value npc s + s.d)
  | _ => s

/-- The postbyte and its extension bytes (30_encoding.md R100). -/
def Idx.len (i : Idx) : Nat :=
  match i with
  | .off5 _ _ => 1
  | .auto _ _ _ => 1
  | .acc _ _ => 1
  | .off9 _ _ => 2
  | .off16 _ _ => 3
  | .ind16 _ _ => 3
  | .indD _ => 1

/-- `EA` of a direct operand (30_encoding.md R95). -/
def directEa (dd : Byte) : Word := zext8 dd

/-- Operand bytes of an 8-bit source. -/
def Src8.len : Src8 → Nat
  | .imm _ => 1
  | .dir _ => 1
  | .ext _ => 2
  | .idx i => i.len

/-- `operand8` (30_encoding.md R94 to R96, R111). -/
def Src8.value (o : Src8) (npc : Word) (s : State) : Byte :=
  match o with
  | .imm ii => ii
  | .dir dd => s.readByte (directEa dd)
  | .ext a => s.readByte a
  | .idx i => (i.side npc s).readByte (i.ea npc s)

/-- The state after the operand is read. -/
def Src8.side (o : Src8) (npc : Word) (s : State) : State :=
  match o with
  | .imm _ => s
  | .dir dd => s.touch (directEa dd)
  | .ext a => s.touch a
  | .idx i => (i.side npc s).touch (i.ea npc s)

/-- Operand bytes of a 16-bit source. -/
def Src16.len : Src16 → Nat
  | .imm _ => 2
  | .dir _ => 1
  | .ext _ => 2
  | .idx i => i.len

/-- `operand16` (30_encoding.md R94 to R96, R111). -/
def Src16.value (o : Src16) (npc : Word) (s : State) : Word :=
  match o with
  | .imm jjkk => jjkk
  | .dir dd => s.readWord (directEa dd)
  | .ext a => s.readWord a
  | .idx i => (i.side npc s).readWord (i.ea npc s)

/-- The state after the operand is read. -/
def Src16.side (o : Src16) (npc : Word) (s : State) : State :=
  match o with
  | .imm _ => s
  | .dir dd => s.touchWord (directEa dd)
  | .ext a => s.touchWord a
  | .idx i => (i.side npc s).touchWord (i.ea npc s)

/-- Operand bytes of a memory operand. -/
def MemOp.len : MemOp → Nat
  | .dir _ => 1
  | .ext _ => 2
  | .idx i => i.len

/-- `EA` of a memory operand. -/
def MemOp.ea (o : MemOp) (npc : Word) (s : State) : Word :=
  match o with
  | .dir dd => directEa dd
  | .ext a => a
  | .idx i => i.ea npc s

/-- The state after the operand's address is formed. -/
def MemOp.side (o : MemOp) (npc : Word) (s : State) : State :=
  match o with
  | .idx i => i.side npc s
  | _ => s

/-- Operand bytes of a memory operand with no direct form. -/
def ExtIdx.len : ExtIdx → Nat
  | .ext _ => 2
  | .idx i => i.len

/-- `EA` of a memory operand with no direct form. -/
def ExtIdx.ea (o : ExtIdx) (npc : Word) (s : State) : Word :=
  match o with
  | .ext a => a
  | .idx i => i.ea npc s

/-- The state after the operand's address is formed. -/
def ExtIdx.side (o : ExtIdx) (npc : Word) (s : State) : State :=
  match o with
  | .idx i => i.side npc s
  | .ext _ => s

/-- Operand bytes of a MOVB source. -/
def MovSrc8.len : MovSrc8 → Nat
  | .imm _ => 1
  | .ext _ => 2
  | .idx i => i.len

/-- The byte a MOVB moves. -/
def MovSrc8.value (o : MovSrc8) (npc : Word) (s : State) : Byte :=
  match o with
  | .imm ii => ii
  | .ext a => s.readByte a
  | .idx i => (i.side npc s).readByte (i.ea npc s)

/-- The state after the source of a MOVB is read. -/
def MovSrc8.side (o : MovSrc8) (npc : Word) (s : State) : State :=
  match o with
  | .imm _ => s
  | .ext a => s.touch a
  | .idx i => (i.side npc s).touch (i.ea npc s)

/-- Operand bytes of a MOVW source. -/
def MovSrc16.len : MovSrc16 → Nat
  | .imm _ => 2
  | .ext _ => 2
  | .idx i => i.len

/-- The word a MOVW moves. -/
def MovSrc16.value (o : MovSrc16) (npc : Word) (s : State) : Word :=
  match o with
  | .imm jjkk => jjkk
  | .ext a => s.readWord a
  | .idx i => (i.side npc s).readWord (i.ea npc s)

/-- The state after the source of a MOVW is read. -/
def MovSrc16.side (o : MovSrc16) (npc : Word) (s : State) : State :=
  match o with
  | .imm _ => s
  | .ext a => s.touchWord a
  | .idx i => (i.side npc s).touchWord (i.ea npc s)

/-! ### The shapes of an instruction: the operand first, then the operation, then `pc <- npc`. -/

/-- The answer of a meaning. -/
abbrev Machine.Result := Host.Outcome Machine.State Machine.Fault Machine.Refusal

/-- An inherent instruction of `n` bytes that does `f`. -/
def Machine.inherent (n : Nat) (f : State → State) (s : State) : Result :=
  .next { f s with pc := s.npc n }

/-- An instruction with one 8-bit source after a one-byte opcode. -/
def Machine.withSrc8 (o : Src8) (f : Byte → State → State) (s : State) : Result :=
  let npc := s.npc (1 + o.len)
  .next { f (o.value npc s) (o.side npc s) with pc := npc }

/-- An instruction with one 16-bit source after a one-byte opcode. -/
def Machine.withSrc16 (o : Src16) (f : Word → State → State) (s : State) : Result :=
  let npc := s.npc (1 + o.len)
  .next { f (o.value npc s) (o.side npc s) with pc := npc }

/-- An instruction on a memory operand, given its address, with `k` bytes besides the operand's. -/
def Machine.withMemOp (k : Nat) (o : MemOp) (f : Word → State → State) (s : State) : Result :=
  let npc := s.npc (k + o.len)
  .next { f (o.ea npc s) (o.side npc s) with pc := npc }

/-- An instruction on a memory operand with no direct form, given its address. -/
def Machine.withExtIdx (o : ExtIdx) (f : Word → State → State) (s : State) : Result :=
  let npc := s.npc (1 + o.len)
  .next { f (o.ea npc s) (o.side npc s) with pc := npc }

/-- An instruction on an indexed operand, given its address, with `k` opcode bytes. -/
def Machine.withIdx (k : Nat) (i : Idx) (f : Word → State → State) (s : State) : Result :=
  let npc := s.npc (k + i.len)
  .next { f (i.ea npc s) (i.side npc s) with pc := npc }

end Sys2Proof
end

