-- ==== Sys2Proof/Machine/Boundary.lean ====
section
/-! DEFINITION. What happens at an instruction boundary before an instruction starts, and after one ends: reset, tag,
interrupts, WAIT, STOPPED and active background debug mode (60_exceptions.md R503, R520, R521, R535). -/

namespace Sys2Proof.Machine

/-- Active background debug mode is entered instead of the tagged instruction: `TMP2 <- pc` (60_exceptions.md R535;
47_system.md R495). -/
def State.enterBdm (s : State) : State :=
  { s with tmp2 := s.pc, tmp2Known := false, tmp3Known := false, ruleAhead := none, run := .bdmActive }

/-- The firmware returns to the address in TMP2 (60_exceptions.md R535; log 34). Whether TMP2 still holds a value that a rule
states for an EXG run right after is not in the spec: D3 and R34 (10_state.md) name BGND as stating the address, but firmware
has run since, so neither TMP2 nor TMP3 counts as stated: DESIGN CHOICE, safe (log 8). -/
def State.leaveBdm (s : State) : State :=
  { s with pc := s.tmp2, tmp2Known := false, tmp3Known := false, run := .running }

/-- One change of the BDM host, free of the bounds an instruction has: X may be set (60_exceptions.md R535, U21). -/
def State.bdmWrite (s : State) (w : BdmWrite) : State :=
  match w with
  | .a v => { s with a := v }
  | .b v => { s with b := v }
  | .x v => { s with x := v }
  | .y v => { s with y := v }
  | .sp v => { s with sp := v }
  | .ccr v => { s with ccr := Ccr.ofByte v }
  | .tmp1 v => { s with tmp1 := v }
  | .tmp2 v => { s with tmp2 := v }
  | .tmp3 v => { s with tmp3 := v }
  | .ppage v => { s with ppage := v }
  | .iDelay v => { s with iDelay := v }
  | .memory k v => { s with mem := s.mem.write k v }
  | .devices v => { s with devices := v }

/-- One step of active background debug mode: the host's changes, and then the return if it comes (60_exceptions.md R535,
92_eei_decisions.md D17; log 34). -/
def bdmStep (s : State) (q : Inputs) : State :=
  let t := q.bdmWrites.foldl State.bdmWrite s
  if q.bdmExit then t.leaveBdm else t

/-- XIRQ with X = 1 ends STOP with no handler: the frame is dropped and the instruction after STOP is next
(60_exceptions.md R521). The word is the address STOP stacked, which R521 shows as a read of the frame only to say which value
it is; no access is made, so no device sees one. -/
def State.continueAfterStop (s : State) : State :=
  { s with pc := s.readWord (s.sp + 7), sp := s.sp + 9, run := .running }

/-- One step of WAIT (60_exceptions.md R520). -/
def waitStep (s : State) (q : Inputs) : State :=
  match s.interruptPending q with
  | some r => s.wake r
  | none => s

/-- One step of STOPPED, with no reset (60_exceptions.md R521; log 33). -/
def stoppedStep (s : State) (q : Inputs) : State :=
  if q.xirq then
    if s.ccr.x then s.continueAfterStop else s.wake ⟨0xFFF4, true⟩
  else if s.ccr.i then s
  else
    match selectIrq s.dev.promoted ((s.irqRequests q).filter fun n => s.dev.stopWake.contains n.number) with
    | some n => s.wake ⟨n.address, false⟩
    | none => s

/-- What the boundary does by itself, for the environment `q`; `none` when the instruction at the PC is executed. Reset
first, then a tag, then an interrupt (60_exceptions.md R503; log 36). -/
def boundary (s : State) (q : Inputs) : Option State :=
  match q.resetVector with
  | some v => some (s.takeReset v)
  | none =>
    match s.run with
    | .running =>
      if q.tag && s.dev.bdmEnabled then some s.enterBdm
      else
        match s.interruptPending q with
        | some r => some (s.exceptionEntry r.vector s.pc r.isXirq)
        | none => none
    | .wait => some (waitStep s q)
    | .stopped => some (stoppedStep s q)
    | .bdmActive => some (bdmStep s q)

/-- The instructions whose own rule leaves a value in `i_delay` (10_state.md R36; log 12). -/
def writesDelay : Instr → Bool
  | .andcc _ => true
  | .clc => true
  | .cli => true
  | .clv => true
  | .tfr _ _ => true
  | .sex _ _ => true
  | .exg _ _ => true
  | .tap => true
  | .tpa => true
  | .tsx => true
  | .tsy => true
  | .txs => true
  | .tys => true
  | .xgdx => true
  | .xgdy => true
  | _ => false

/-- REV and REVW between two rule elements: the instruction has not ended, its PC has not moved
(44_fuzzy_minmax_table.md R345, R347). Its bytes are fetched again for each element, and the element read ahead is kept even if a
consequent has just overwritten them: a REVW found where a REV stood, or a REV where a REVW stood, takes that element as its
own. What hardware does there is open (70_reset_and_hazards.md R562, U18): DESIGN CHOICE, unsafe (log 19). -/
def midRuleList (i : Instr) (s t : State) : Bool :=
  match i with
  | .rev => t.pc == s.pc
  | .revw => t.pc == s.pc
  | _ => false

/-- The instructions whose rule states the value they leave in TMP2 (10_state.md R34). -/
def definesTmp2 : Instr → Bool
  | .wav => true
  | .wavr => true
  | .bgnd => true
  | .tfr _ .tmp => true
  | .exg _ .tmp => true
  | _ => false

/-- The instructions whose rule states the value they leave in TMP3 (10_state.md R34). -/
def definesTmp3 : Instr → Bool
  | .wav => true
  | .wavr => true
  | .exg .tmp _ => true
  | _ => false

/-- After instruction `i` has taken `s` to `t`: `i_delay` is 0 unless the instruction set it (60_exceptions.md R503), TMP2
and TMP3 hold no stated value unless the instruction left one (10_state.md R34; log 8), and no rule element is read ahead
outside a rule list. -/
def endInstruction (i : Instr) (s t : State) : State :=
  { t with
    iDelay := if writesDelay i || midRuleList i s t then t.iDelay else false
    tmp2Known := t.tmp2Known && definesTmp2 i
    tmp3Known := t.tmp3Known && definesTmp3 i
    ruleAhead := if midRuleList i s t then t.ruleAhead else none }

end Sys2Proof.Machine
end

