-- ==== Sys2Proof/Machine/Arith.lean ====
section
/-! DEFINITION. Addition, subtraction, BCD, increment, decrement, compare, test, clear, complement, negate
(41_arith.md R199 to R245). -/

namespace Sys2Proof.Machine

/-- H, N, Z, V, C as an addition gives them. -/
def State.hnzvc {w : Nat} (s : State) (r : Alu w) : State := { s with ccr := s.ccr.hnzvc r }

/-- N, Z, V, C as an operation gives them. -/
def State.nzvc {w : Nat} (s : State) (r : Alu w) : State := { s with ccr := s.ccr.nzvc r }

/-- N, Z, V, C as given. -/
def State.setNzvc (s : State) (n z v c : Bool) : State := { s with ccr := s.ccr.setNzvc n z v c }

/-- N and Z from the result, V as given, C kept: increments and decrements. -/
def State.nzv {w : Nat} (s : State) (res : BitVec w) (v : Bool) : State :=
  { s with ccr := { s.ccr.nz res with v := v } }

/-- Z alone, from the result: INX, INY, DEX, DEY (10_state.md R31). -/
def State.zOnly (s : State) (res : Word) : State := { s with ccr := { s.ccr with z := res == 0 } }

/-- A in-place instruction: one read at `ea`, then one write of `f` of it, then the flags (20_memory.md R65, R199(d)). -/
def modify8 (f : Byte → Byte) (flags : Byte → State → State) (ea : Word) (t : State) : State :=
  let m := t.readByte ea
  flags m ((t.touch ea).writeByte ea (f m))

/-- ADDA (R200). -/
def execAdda (src : Src8) (s : State) : Result :=
  withSrc8 src (fun m t => let r := addFlags t.a m false; { t with a := r.res }.hnzvc r) s

/-- ADDB (R201). -/
def execAddb (src : Src8) (s : State) : Result :=
  withSrc8 src (fun m t => let r := addFlags t.b m false; { t with b := r.res }.hnzvc r) s

/-- ADCA (R202). -/
def execAdca (src : Src8) (s : State) : Result :=
  withSrc8 src (fun m t => let r := addFlags t.a m t.ccr.c; { t with a := r.res }.hnzvc r) s

/-- ADCB (R203). -/
def execAdcb (src : Src8) (s : State) : Result :=
  withSrc8 src (fun m t => let r := addFlags t.b m t.ccr.c; { t with b := r.res }.hnzvc r) s

/-- ADDD (R204): H is not written. -/
def execAddd (src : Src16) (s : State) : Result :=
  withSrc16 src (fun m t => let r := addFlags t.d m false; (t.setD r.res).nzvc r) s

/-- ABA (R205). -/
def execAba (s : State) : Result :=
  inherent 2 (fun t => let r := addFlags t.a t.b false; { t with a := r.res }.hnzvc r) s

/-- ABX (R206). -/
def execAbx (s : State) : Result :=
  inherent 2 (fun t => { t with x := t.x + zext8 t.b }) s

/-- ABY (R207). -/
def execAby (s : State) : Result :=
  inherent 2 (fun t => { t with y := t.y + zext8 t.b }) s

/-- SUBA (R208). -/
def execSuba (src : Src8) (s : State) : Result :=
  withSrc8 src (fun m t => let r := subFlags t.a m false; { t with a := r.res }.nzvc r) s

/-- SUBB (R209). -/
def execSubb (src : Src8) (s : State) : Result :=
  withSrc8 src (fun m t => let r := subFlags t.b m false; { t with b := r.res }.nzvc r) s

/-- SBCA (R210). -/
def execSbca (src : Src8) (s : State) : Result :=
  withSrc8 src (fun m t => let r := subFlags t.a m t.ccr.c; { t with a := r.res }.nzvc r) s

/-- SBCB (R211). -/
def execSbcb (src : Src8) (s : State) : Result :=
  withSrc8 src (fun m t => let r := subFlags t.b m t.ccr.c; { t with b := r.res }.nzvc r) s

/-- SUBD (R212). -/
def execSubd (src : Src16) (s : State) : Result :=
  withSrc16 src (fun m t => let r := subFlags t.d m false; (t.setD r.res).nzvc r) s

/-- SBA (R213). -/
def execSba (s : State) : Result :=
  inherent 2 (fun t => let r := subFlags t.a t.b false; { t with a := r.res }.nzvc r) s

/-- The correction factor of DAA (R214). Applied to every input, also those outside the table (log 22). -/
def daaCorrection (a : Byte) (h c : Bool) : Byte :=
  let lo := a.toNat % 16
  let hi := a.toNat / 16
  (if h || decide (9 < lo) then 0x06 else 0x00) +
    (if c || decide (9 < hi) || (hi == 9 && decide (9 < lo)) then 0x60 else 0x00)

/-- The corrected carry of DAA (R214). -/
def daaCarry (a : Byte) (c : Bool) : Bool :=
  let lo := a.toNat % 16
  let hi := a.toNat / 16
  c || decide (9 < hi) || (hi == 9 && decide (9 < lo))

/-- DAA (R214): V is a free value (U1). -/
def execDaa (s : State) : Result :=
  inherent 2 (fun t =>
    let res := t.a + daaCorrection t.a t.ccr.h t.ccr.c
    ({ t with a := res }.setNzvc res.msb (res == 0) (t.freeBit 0) (daaCarry t.a t.ccr.c)).drew 1) s

/-- INC (R215): V exactly when the byte was $7F. -/
def execInc (ad : ExtIdx) (s : State) : Result :=
  withExtIdx ad (modify8 (fun m => m + 1) (fun m t => t.nzv (m + 1) (m == 0x7F))) s

/-- INCA (R216). -/
def execInca (s : State) : Result :=
  inherent 1 (fun t => { t with a := t.a + 1 }.nzv (t.a + 1) (t.a == 0x7F)) s

/-- INCB (R217). -/
def execIncb (s : State) : Result :=
  inherent 1 (fun t => { t with b := t.b + 1 }.nzv (t.b + 1) (t.b == 0x7F)) s

/-- DEC (R218): V exactly when the byte was $80. -/
def execDec (ad : ExtIdx) (s : State) : Result :=
  withExtIdx ad (modify8 (fun m => m - 1) (fun m t => t.nzv (m - 1) (m == 0x80))) s

/-- DECA (R219). -/
def execDeca (s : State) : Result :=
  inherent 1 (fun t => { t with a := t.a - 1 }.nzv (t.a - 1) (t.a == 0x80)) s

/-- DECB (R220). -/
def execDecb (s : State) : Result :=
  inherent 1 (fun t => { t with b := t.b - 1 }.nzv (t.b - 1) (t.b == 0x80)) s

/-- DES (R221). -/
def execDes (s : State) : Result :=
  inherent 2 (fun t => { t with sp := t.sp - 1 }) s

/-- DEX (R222). -/
def execDex (s : State) : Result :=
  inherent 1 (fun t => { t with x := t.x - 1 }.zOnly (t.x - 1)) s

/-- DEY (R223). -/
def execDey (s : State) : Result :=
  inherent 1 (fun t => { t with y := t.y - 1 }.zOnly (t.y - 1)) s

/-- INS (R224). -/
def execIns (s : State) : Result :=
  inherent 2 (fun t => { t with sp := t.sp + 1 }) s

/-- INX (R225). -/
def execInx (s : State) : Result :=
  inherent 1 (fun t => { t with x := t.x + 1 }.zOnly (t.x + 1)) s

/-- INY (R226). -/
def execIny (s : State) : Result :=
  inherent 1 (fun t => { t with y := t.y + 1 }.zOnly (t.y + 1)) s

/-- CBA (R227). -/
def execCba (s : State) : Result :=
  inherent 2 (fun t => t.nzvc (subFlags t.a t.b false)) s

/-- CMPA (R228). -/
def execCmpa (src : Src8) (s : State) : Result :=
  withSrc8 src (fun m t => t.nzvc (subFlags t.a m false)) s

/-- CMPB (R229). -/
def execCmpb (src : Src8) (s : State) : Result :=
  withSrc8 src (fun m t => t.nzvc (subFlags t.b m false)) s

/-- CPD (R230). -/
def execCpd (src : Src16) (s : State) : Result :=
  withSrc16 src (fun m t => t.nzvc (subFlags t.d m false)) s

/-- CPS (R231). -/
def execCps (src : Src16) (s : State) : Result :=
  withSrc16 src (fun m t => t.nzvc (subFlags t.sp m false)) s

/-- CPX (R232). -/
def execCpx (src : Src16) (s : State) : Result :=
  withSrc16 src (fun m t => t.nzvc (subFlags t.x m false)) s

/-- CPY (R233). -/
def execCpy (src : Src16) (s : State) : Result :=
  withSrc16 src (fun m t => t.nzvc (subFlags t.y m false)) s

/-- N and Z from a value, V and C cleared: the tests (R234). -/
def State.testFlags (s : State) (m : Byte) : State := s.setNzvc m.msb (m == 0) false false

/-- TST (R234): reads, never writes. -/
def execTst (ad : ExtIdx) (s : State) : Result :=
  withExtIdx ad (fun ea t => (t.touch ea).testFlags (t.readByte ea)) s

/-- TSTA (R235). -/
def execTsta (s : State) : Result :=
  inherent 1 (fun t => t.testFlags t.a) s

/-- TSTB (R236). -/
def execTstb (s : State) : Result :=
  inherent 1 (fun t => t.testFlags t.b) s

/-- CLR (R237): writes with no preceding read. -/
def execClr (ad : ExtIdx) (s : State) : Result :=
  withExtIdx ad (fun ea t => (t.writeByte ea 0).setNzvc false true false false) s

/-- CLRA (R238). -/
def execClra (s : State) : Result :=
  inherent 1 (fun t => { t with a := 0 }.setNzvc false true false false) s

/-- CLRB (R239). -/
def execClrb (s : State) : Result :=
  inherent 1 (fun t => { t with b := 0 }.setNzvc false true false false) s

/-- The flags of a complement: C set (R240). -/
def State.comFlags (s : State) (res : Byte) : State := s.setNzvc res.msb (res == 0) false true

/-- The flags of a negation: V for $80, C except for $00 (R243). -/
def State.negFlags (s : State) (res : Byte) : State := s.setNzvc res.msb (res == 0) (res == 0x80) (res != 0)

/-- COM (R240). -/
def execCom (ad : ExtIdx) (s : State) : Result :=
  withExtIdx ad (modify8 (fun m => ~~~m) (fun m t => t.comFlags (~~~m))) s

/-- COMA (R241). -/
def execComa (s : State) : Result :=
  inherent 1 (fun t => { t with a := ~~~t.a }.comFlags (~~~t.a)) s

/-- COMB (R242). -/
def execComb (s : State) : Result :=
  inherent 1 (fun t => { t with b := ~~~t.b }.comFlags (~~~t.b)) s

/-- NEG (R243). -/
def execNeg (ad : ExtIdx) (s : State) : Result :=
  withExtIdx ad (modify8 (fun m => 0 - m) (fun m t => t.negFlags (0 - m))) s

/-- NEGA (R244). -/
def execNega (s : State) : Result :=
  inherent 1 (fun t => { t with a := 0 - t.a }.negFlags (0 - t.a)) s

/-- NEGB (R245). -/
def execNegb (s : State) : Result :=
  inherent 1 (fun t => { t with b := 0 - t.b }.negFlags (0 - t.b)) s

end Sys2Proof.Machine
end

