-- ==== Sys2Proof/Machine/Branch.lean ====
section
/-! DEFINITION. Short and long branches, bit-condition branches and loop primitives (45_branch.md R380 to R430). -/

namespace Sys2Proof.Machine

/-- `short_branch(cond)`: two bytes, an 8-bit offset from `npc` (R383; 30_encoding.md R97). -/
def shortBranch (cond : Bool) (rr : Byte) (s : State) : Result :=
  .next { s with pc := if cond then s.npc 2 + sext8 rr else s.npc 2 }

/-- `long_branch(cond)`: four bytes, a 16-bit offset from `npc` (R402). -/
def longBranch (cond : Bool) (qqrr : Word) (s : State) : Result :=
  .next { s with pc := if cond then s.npc 4 + qqrr else s.npc 4 }

/-- BRA (R384). -/
def execBra (rr : Byte) (s : State) : Result := shortBranch (true) rr s

/-- BRN (R385). -/
def execBrn (rr : Byte) (s : State) : Result := shortBranch (false) rr s

/-- BHI (R386). -/
def execBhi (rr : Byte) (s : State) : Result := shortBranch (!(s.ccr.c || s.ccr.z)) rr s

/-- BLS (R387). -/
def execBls (rr : Byte) (s : State) : Result := shortBranch (s.ccr.c || s.ccr.z) rr s

/-- BCC (R388). -/
def execBcc (rr : Byte) (s : State) : Result := shortBranch (!s.ccr.c) rr s

/-- BHS (R389). -/
def execBhs (rr : Byte) (s : State) : Result := shortBranch (!s.ccr.c) rr s

/-- BCS (R390). -/
def execBcs (rr : Byte) (s : State) : Result := shortBranch (s.ccr.c) rr s

/-- BLO (R391). -/
def execBlo (rr : Byte) (s : State) : Result := shortBranch (s.ccr.c) rr s

/-- BNE (R392). -/
def execBne (rr : Byte) (s : State) : Result := shortBranch (!s.ccr.z) rr s

/-- BEQ (R393). -/
def execBeq (rr : Byte) (s : State) : Result := shortBranch (s.ccr.z) rr s

/-- BVC (R394). -/
def execBvc (rr : Byte) (s : State) : Result := shortBranch (!s.ccr.v) rr s

/-- BVS (R395). -/
def execBvs (rr : Byte) (s : State) : Result := shortBranch (s.ccr.v) rr s

/-- BPL (R396). -/
def execBpl (rr : Byte) (s : State) : Result := shortBranch (!s.ccr.n) rr s

/-- BMI (R397). -/
def execBmi (rr : Byte) (s : State) : Result := shortBranch (s.ccr.n) rr s

/-- BGE (R398). -/
def execBge (rr : Byte) (s : State) : Result := shortBranch (!(s.ccr.n ^^ s.ccr.v)) rr s

/-- BLT (R399). -/
def execBlt (rr : Byte) (s : State) : Result := shortBranch (s.ccr.n ^^ s.ccr.v) rr s

/-- BGT (R400). -/
def execBgt (rr : Byte) (s : State) : Result := shortBranch (!(s.ccr.z || (s.ccr.n ^^ s.ccr.v))) rr s

/-- BLE (R401). -/
def execBle (rr : Byte) (s : State) : Result := shortBranch (s.ccr.z || (s.ccr.n ^^ s.ccr.v)) rr s

/-- LBRA (R403). -/
def execLbra (qqrr : Word) (s : State) : Result := longBranch (true) qqrr s

/-- LBRN (R404). -/
def execLbrn (qqrr : Word) (s : State) : Result := longBranch (false) qqrr s

/-- LBHI (R405). -/
def execLbhi (qqrr : Word) (s : State) : Result := longBranch (!(s.ccr.c || s.ccr.z)) qqrr s

/-- LBLS (R406). -/
def execLbls (qqrr : Word) (s : State) : Result := longBranch (s.ccr.c || s.ccr.z) qqrr s

/-- LBCC (R407). -/
def execLbcc (qqrr : Word) (s : State) : Result := longBranch (!s.ccr.c) qqrr s

/-- LBHS (R408). -/
def execLbhs (qqrr : Word) (s : State) : Result := longBranch (!s.ccr.c) qqrr s

/-- LBCS (R409). -/
def execLbcs (qqrr : Word) (s : State) : Result := longBranch (s.ccr.c) qqrr s

/-- LBLO (R410). -/
def execLblo (qqrr : Word) (s : State) : Result := longBranch (s.ccr.c) qqrr s

/-- LBNE (R411). -/
def execLbne (qqrr : Word) (s : State) : Result := longBranch (!s.ccr.z) qqrr s

/-- LBEQ (R412). -/
def execLbeq (qqrr : Word) (s : State) : Result := longBranch (s.ccr.z) qqrr s

/-- LBVC (R413). -/
def execLbvc (qqrr : Word) (s : State) : Result := longBranch (!s.ccr.v) qqrr s

/-- LBVS (R414). -/
def execLbvs (qqrr : Word) (s : State) : Result := longBranch (s.ccr.v) qqrr s

/-- LBPL (R415). -/
def execLbpl (qqrr : Word) (s : State) : Result := longBranch (!s.ccr.n) qqrr s

/-- LBMI (R416). -/
def execLbmi (qqrr : Word) (s : State) : Result := longBranch (s.ccr.n) qqrr s

/-- LBGE (R417). -/
def execLbge (qqrr : Word) (s : State) : Result := longBranch (!(s.ccr.n ^^ s.ccr.v)) qqrr s

/-- LBLT (R418). -/
def execLblt (qqrr : Word) (s : State) : Result := longBranch (s.ccr.n ^^ s.ccr.v) qqrr s

/-- LBGT (R419). -/
def execLbgt (qqrr : Word) (s : State) : Result := longBranch (!(s.ccr.z || (s.ccr.n ^^ s.ccr.v))) qqrr s

/-- LBLE (R420). -/
def execLble (qqrr : Word) (s : State) : Result := longBranch (s.ccr.z || (s.ccr.n ^^ s.ccr.v)) qqrr s

/-- A bit-condition branch: the byte is read, `test` of it decides (R421). -/
def bitBranch (test : Byte → Bool) (ad : MemOp) (rr : Byte) (s : State) : Result :=
  let npc := s.npc (3 + ad.len)
  let ea := ad.ea npc s
  let t := ad.side npc s
  .next { t.touch ea with pc := if test (t.readByte ea) then npc + sext8 rr else npc }

/-- BRSET (R422): taken when every bit of the mask is set in memory. -/
def execBrset (ad : MemOp) (mm rr : Byte) (s : State) : Result := bitBranch (fun m => ~~~m &&& mm == 0) ad rr s

/-- BRCLR (R423): taken when every bit of the mask is clear in memory. -/
def execBrclr (ad : MemOp) (mm rr : Byte) (s : State) : Result := bitBranch (fun m => m &&& mm == 0) ad rr s

/-- The counter of a loop primitive changed by `delta`, and whether it is then zero (R424). -/
def loopCount (r : LoopReg) (delta : Word) (s : State) : State × Bool :=
  match r with
  | .a => let v := s.a + loByte delta; ({ s with a := v }, v == 0)
  | .b => let v := s.b + loByte delta; ({ s with b := v }, v == 0)
  | .d => let v := s.d + delta; (s.setD v, v == 0)
  | .x => let v := s.x + delta; ({ s with x := v }, v == 0)
  | .y => let v := s.y + delta; ({ s with y := v }, v == 0)
  | .sp => let v := s.sp + delta; ({ s with sp := v }, v == 0)

/-- A loop primitive: three bytes, a 9-bit offset, no flag (R424; 30_encoding.md R97, R114). -/
def loopPrimitive (delta : Word) (onZero : Bool) (r : LoopReg) (off : BitVec 9) (s : State) : Result :=
  let t := loopCount r delta s
  .next { t.1 with pc := if t.2 == onZero then s.npc 3 + sext9 off else s.npc 3 }

/-- DBEQ (R425). -/
def execDbeq (r : LoopReg) (off : BitVec 9) (s : State) : Result := loopPrimitive (-1) true r off s

/-- DBNE (R426). -/
def execDbne (r : LoopReg) (off : BitVec 9) (s : State) : Result := loopPrimitive (-1) false r off s

/-- IBEQ (R427). -/
def execIbeq (r : LoopReg) (off : BitVec 9) (s : State) : Result := loopPrimitive 1 true r off s

/-- IBNE (R428). -/
def execIbne (r : LoopReg) (off : BitVec 9) (s : State) : Result := loopPrimitive 1 false r off s

/-- TBEQ (R429). -/
def execTbeq (r : LoopReg) (off : BitVec 9) (s : State) : Result := loopPrimitive 0 true r off s

/-- TBNE (R430). -/
def execTbne (r : LoopReg) (off : BitVec 9) (s : State) : Result := loopPrimitive 0 false r off s

/-- A loop postbyte with bits 7:6 = 11: the spec gives no behaviour and tells a model to refuse (30_encoding.md R114, R123;
U3; log 24). -/
def execUnassignedLoopPostbyte (_lb _rr : Byte) (_s : State) : Result := .refused .loopPostbyteUnassigned

end Sys2Proof.Machine
end

