-- ==== Sys2Proof/Machine/Fuzzy.lean ====
section
/-! DEFINITION. MEM, REV, REVW, WAV and its resume form wavr (44_fuzzy_minmax_table.md R340 to R353). REV and REVW do one
rule element per step and leave the PC at themselves until the end marker, the form R345 and R347 allow (log 19); WAV runs
whole, with the interrupt check R352 puts in each iteration (log 21). -/

namespace Sys2Proof.Machine

/-- H, N, Z, V and C undefined (U1). -/
def State.freeHnzvc (s : State) : State :=
  { s with ccr := { s.ccr with h := s.freeBit 0, n := s.freeBit 1, z := s.freeBit 2, v := s.freeBit 3,
                               c := s.freeBit 4 } }.drew 5

/-- The grade of membership of `a` in the trapezoid `p1, p2, s1, s2` (R342). -/
def membershipGrade (a p1 p2 s1 s2 : Byte) : Byte :=
  let outside := decide (a.toNat < p1.toNat) || decide (p2.toNat < a.toNat)
  let g1 := if outside then 0 else s1.toNat * (a.toNat - p1.toNat)
  let g2 := if outside then 0 else s2.toNat * (p2.toNat - a.toNat)
  let right := if (s2 == 0 || decide (0xFF < g2)) && !outside then 0xFF else g2
  BitVec.ofNat 8 (if (s1 == 0 || decide (0xFF < g1)) && !outside then right else g1)

/-- MEM (R342): the four bytes of the membership function are read as two words, then the grade is written. -/
def execMem (s : State) : Result :=
  inherent 1 (fun t =>
    let p := t.readWord t.x
    let u := t.touchWord t.x
    let q := u.readWord (t.x + 2)
    let g := membershipGrade t.a (hiByte p) (loByte p) (hiByte q) (loByte q)
    let v := (u.touchWord (t.x + 2)).writeByte t.y g
    { v with x := t.x + 4, y := t.y + 1 }.freeHnzvc) s

/-- MAX: the consequent at `fa`, read as `f`, is raised to A; no write otherwise (R344, R346). -/
def State.raiseOutput (s : State) (fa : Word) (f : Byte) : State :=
  if f.toNat < s.a.toNat then s.writeByte fa s.a else s

/-- MIN: A is lowered to the antecedent `f` (R344, R346). -/
def State.lowerTruth (s : State) (f : Byte) : State := if f.toNat < s.a.toNat then { s with a := f } else s

/-- One antecedent or consequent, read at `fa` as `f`, by V (R344, R346). -/
def State.ruleElement (s : State) (fa : Word) (f : Byte) : State :=
  if s.ccr.v then s.raiseOutput fa f else s.lowerTruth f

/-- H, N, Z and C undefined (U1): REV. -/
def State.freeHnzc (s : State) : State :=
  { s with ccr := { s.ccr with h := s.freeBit 0, n := s.freeBit 1, z := s.freeBit 2, c := s.freeBit 3 } }.drew 4

/-- H, N and Z undefined (U1): REVW, which keeps C. -/
def State.freeHnz (s : State) : State :=
  { s with ccr := { s.ccr with h := s.freeBit 0, n := s.freeBit 1, z := s.freeBit 2 } }.drew 3

/-- The next rule byte: the one read ahead, or the byte at X (R344(d)). -/
def State.ruleByte (s : State) : Byte :=
  match s.ruleAhead with
  | some w => loByte w
  | none => s.readByte s.x

/-- The state after the next rule byte is taken, X past it. -/
def State.tookByte (s : State) : State :=
  { (if s.ruleAhead.isSome then s else s.touch s.x) with x := s.x + 1, ruleAhead := none }

/-- The byte at X read ahead (R344(d)). -/
def State.byteAhead (s : State) : State := { s.touch s.x with ruleAhead := some (zext8 (s.readByte s.x)) }

/-- The next rule word: the one read ahead, or the word at X (R346(e)); a REVW that a consequent of a REV put in the REV's place
takes the byte the REV read ahead: DESIGN CHOICE (log 19). -/
def State.ruleWord (s : State) : Word :=
  match s.ruleAhead with
  | some w => w
  | none => s.readWord s.x

/-- The state after the next rule word is taken, X past it. -/
def State.tookWord (s : State) : State :=
  { (if s.ruleAhead.isSome then s else s.touchWord s.x) with x := s.x + 2, ruleAhead := none }

/-- The word at X read ahead (R346(e)). -/
def State.wordAhead (s : State) : State := { s.touchWord s.x with ruleAhead := some (s.readWord s.x) }

/-- REV (R344, R345): one rule element. The end marker $FF completes the instruction; any other element leaves the PC at
it. The element's fuzzy input or output is read, then the element after it, then the fuzzy output is written (R344(d)). -/
def execRev (s : State) : Result :=
  let rx := s.ruleByte
  let t := s.tookByte
  if rx = 0xFF then .next { t.freeHnzc with pc := s.npc 2 }
  else if rx = 0xFE then
    .next { t.byteAhead with a := if t.ccr.v then 0xFF else t.a, ccr := { t.ccr with v := !t.ccr.v } }.freeHnzc
  else
    let fa := t.y + zext8 rx
    .next ((t.touch fa).byteAhead.ruleElement fa (t.readByte fa)).freeHnzc

/-- The separator between the antecedents and the consequents of a rule: with C = 1 the truth value is weighted (R346). -/
def State.applyWeight (s : State) : State :=
  if s.ccr.c then
    let p := BitVec.ofNat 16 (((s.readByte s.y).toNat + 1) * s.a.toNat)
    { s.touch s.y with a := hiByte p, b := if Config.revwKeepsB then s.b else loByte p, y := s.y + 1 }
  else s

/-- REVW (R346, R347): one rule element. Its weight or its fuzzy input or output is read, then the element after it, then the
fuzzy output is written (R346(e)). -/
def execRevw (s : State) : Result :=
  let rx := s.ruleWord
  let t := s.tookWord
  if rx = 0xFFFF then .next { t.freeHnz with pc := s.npc 2 }
  else if rx = 0xFFFE then
    if t.ccr.v then .next { t.wordAhead with a := 0xFF, ccr := { t.ccr with v := false } }.freeHnz
    else .next { t.applyWeight.wordAhead with ccr := { t.ccr with v := true } }.freeHnz
  else .next ((t.touch rx).wordAhead.ruleElement rx (t.readByte rx)).freeHnz

/-- The pair `Fi`, `Si` accumulated: TMP1 : TMP2 the sum of products, TMP3 the sum of weights (R351). -/
def State.accumulate (s : State) (fi si : Byte) : State :=
  let sop : BitVec 32 := (s.tmp1 ++ s.tmp2) + BitVec.ofNat 32 (si.toNat * fi.toNat)
  { s with tmp3 := s.tmp3 + zext8 fi, tmp1 := sop.extractLsb' 16 16, tmp2 := sop.extractLsb' 0 16 }

/-- The end of WAV: the sums into Y : D and X, Z set, H, N, V, C undefined; TMP1 to TMP3 keep the sums (R351). -/
def State.finishWav (s : State) (npc : Word) : State :=
  { s.setD s.tmp2 with
      y := s.tmp1, x := s.tmp3, pc := npc, tmp2Known := true, tmp3Known := true
      ccr := { s.ccr with z := true, h := s.freeBit 0, n := s.freeBit 1, v := s.freeBit 2, c := s.freeBit 3 } }.drew 4

/-- The interrupt exit of WAV: the three temporaries pushed, then the entry with the address of the $3C byte as return
address (R352). That TMP2 and TMP3, which hold the sums pushed, do not count as stated in the handler is the model's choice
(log 8). -/
def State.interruptWav (s : State) (here : Word) (q : Request) : State :=
  (((s.push16 s.tmp3).push16 s.tmp2).push16 s.tmp1).freeHnzvc.exceptionEntry q.vector here q.isXirq

/-- The state at the check of a pass of WAV: B counted down, `Fi` and then `Si` read, the pointers past them (R351). -/
def State.pairTaken (s : State) : State :=
  { (s.touch s.y).touch s.x with b := s.b - 1, y := s.y + 1, x := s.x + 1 }

/-- The passes of WAV, `k` more after this one: B counted down, the pair read, the environment looked at, the pair
accumulated (R351, R352). A reset in a pass abandons the rest, and may cut the interrupt exit short (R341(e), R551). -/
def wavLoop (here npc : Word) : Nat → State → State
  | k, s =>
    let fi := s.readByte s.y
    let si := (s.touch s.y).readByte s.x
    let t := s.pairTaken
    let q := t.input
    let u := t.popInput
    match q.resetVector with
    | some v => u.takeReset v
    | none =>
      match u.interruptPending q with
      | some r => u.cutShort q.lateReset fun w => w.interruptWav here r
      | none =>
        match q.lateReset with
        | some (r, _) => u.abandon r
        | none =>
          match k with
          | 0 => (u.accumulate fi si).finishWav npc
          | k + 1 => wavLoop here npc k (u.accumulate fi si)

/-- WAV (R351): B passes, 256 when B is $00. -/
def execWav (s : State) : Result :=
  .next (wavLoop (s.npc 1) (s.npc 2) (s.b - 1).toNat { s with tmp1 := 0, tmp2 := 0, tmp3 := 0 })

/-- The temporaries pulled by wavr, TMP1 first (R353). -/
def State.pullSums (s : State) : State :=
  let t := s.pulled16
  let u := t.pulled16
  { u.pulled16 with tmp1 := s.top16, tmp2 := t.top16, tmp3 := u.top16 }

/-- The pending pair, below the pointers, read again and accumulated with no check (R353). -/
def State.addPending (s : State) : State :=
  let t := s.touch (s.y - 1)
  (t.touch (s.x - 1)).accumulate (s.readByte (s.y - 1)) (t.readByte (s.x - 1))

/-- wavr (R353): the temporaries pulled, the pending pair added, then WAV. -/
def execWavr (s : State) : Result :=
  let u := s.pullSums.addPending
  .next (if u.b = 0 then u.finishWav (s.npc 1) else wavLoop s.pc (s.npc 1) (u.b - 1).toNat u)

end Sys2Proof.Machine
end

