-- ==== Sys2Proof/Machine/Jump.lean ====
section
/-! DEFINITION. Jump, call, return, push and pull (46_jump_call_stack.md R440 to R462). -/

namespace Sys2Proof.Machine

/-- JMP (R441): the effective address itself. -/
def execJmp (ad : ExtIdx) (s : State) : Result :=
  let npc := s.npc (1 + ad.len)
  .next { ad.side npc s with pc := ad.ea npc s }

/-- BSR (R443). -/
def execBsr (rr : Byte) (s : State) : Result :=
  .next { s.push16 (s.npc 2) with pc := s.npc 2 + sext8 rr }

/-- JSR (R444): the address is formed, with its adjustment, before the push (R445). -/
def execJsr (ad : MemOp) (s : State) : Result :=
  let npc := s.npc (1 + ad.len)
  .next { (ad.side npc s).push16 npc with pc := ad.ea npc s }

/-- RTS (R446). -/
def execRts (s : State) : Result := .next { s.pulled16 with pc := s.top16 }

/-- CALL's stacking: the old page is read, the new one written, then the return address and the old page are pushed (R447;
log 18). -/
def State.call (t : State) (npc target : Word) (page : Byte) : State :=
  { (({ t with ppage := page }).push16 npc).push8 t.ppage with pc := target }

/-- CALL (R447): the indirect forms take the target and the page from memory. -/
def execCall (t : CallTarget) (s : State) : Result :=
  match t with
  | .ext a pg => .next (s.call (s.npc 4) a pg)
  | .idx i pg =>
    let npc := s.npc (2 + i.len)
    .next ((i.side npc s).call npc (i.ea npc s) pg)
  | .ind i =>
    let npc := s.npc (1 + i.len)
    let t := i.side npc s
    let pa := i.pointer npc s + 2
    .next ((t.touch pa).call npc (i.ea npc s) (t.readByte pa))

/-- RTC (R448): both pulls before PPAGE is written. -/
def execRtc (s : State) : Result :=
  let t := s.pulled8
  .next { t.pulled16 with ppage := s.top8, pc := t.top16 }

/-- PSHA (R451). -/
def execPsha (s : State) : Result := inherent 1 (fun t => t.push8 t.a) s

/-- PSHB (R452). -/
def execPshb (s : State) : Result := inherent 1 (fun t => t.push8 t.b) s

/-- PSHC (R453). -/
def execPshc (s : State) : Result := inherent 1 (fun t => t.push8 t.ccr.toByte) s

/-- PSHD (R454). -/
def execPshd (s : State) : Result := inherent 1 (fun t => t.push16 t.d) s

/-- PSHX (R455). -/
def execPshx (s : State) : Result := inherent 1 (fun t => t.push16 t.x) s

/-- PSHY (R456). -/
def execPshy (s : State) : Result := inherent 1 (fun t => t.push16 t.y) s

/-- PULA (R457). -/
def execPula (s : State) : Result := inherent 1 (fun t => { t.pulled8 with a := t.top8 }) s

/-- PULB (R458). -/
def execPulb (s : State) : Result := inherent 1 (fun t => { t.pulled8 with b := t.top8 }) s

/-- PULC (R459): X can only be cleared, and `i_delay` is not set. -/
def execPulc (s : State) : Result := inherent 1 (fun t => t.pulled8.writeCcr t.top8) s

/-- PULD (R460). -/
def execPuld (s : State) : Result := inherent 1 (fun t => t.pulled16.setD t.top16) s

/-- PULX (R461). -/
def execPulx (s : State) : Result := inherent 1 (fun t => { t.pulled16 with x := t.top16 }) s

/-- PULY (R462). -/
def execPuly (s : State) : Result := inherent 1 (fun t => { t.pulled16 with y := t.top16 }) s

end Sys2Proof.Machine
end

