-- ==== Sys2Proof/Machine/LoadStore.lean ====
section
/-! DEFINITION. Loads, load effective address, stores, TAB and TBA, moves (40_load_store_transfer_move.md R140 to R158, R173,
R174). -/

namespace Sys2Proof.Machine

/-- `nzv8` and `nzv16`: N and Z from the value, V cleared (R141). -/
def State.nzv0 {w : Nat} (s : State) (v : BitVec w) : State := { s with ccr := s.ccr.nzv0 v }

/-- LDAA (R142). -/
def execLdaa (src : Src8) (s : State) : Result :=
  withSrc8 src (fun v t => { t with a := v }.nzv0 v) s

/-- LDAB (R143). -/
def execLdab (src : Src8) (s : State) : Result :=
  withSrc8 src (fun v t => { t with b := v }.nzv0 v) s

/-- LDD (R144). -/
def execLdd (src : Src16) (s : State) : Result :=
  withSrc16 src (fun v t => (t.setD v).nzv0 v) s

/-- LDS (R145). -/
def execLds (src : Src16) (s : State) : Result :=
  withSrc16 src (fun v t => { t with sp := v }.nzv0 v) s

/-- LDX (R146). -/
def execLdx (src : Src16) (s : State) : Result :=
  withSrc16 src (fun v t => { t with x := v }.nzv0 v) s

/-- LDY (R147). -/
def execLdy (src : Src16) (s : State) : Result :=
  withSrc16 src (fun v t => { t with y := v }.nzv0 v) s

/-- LEAS (R148): the address is the last write, so a post-adjusted SP is not seen. -/
def execLeas (i : Idx) (s : State) : Result := withIdx 1 i (fun ea t => { t with sp := ea }) s

/-- LEAX (R149). -/
def execLeax (i : Idx) (s : State) : Result := withIdx 1 i (fun ea t => { t with x := ea }) s

/-- LEAY (R150). -/
def execLeay (i : Idx) (s : State) : Result := withIdx 1 i (fun ea t => { t with y := ea }) s

/-- `MemWrite(ea, 1, v)` and the flags of a store (R141, R151). -/
def store8 (ea : Word) (v : Byte) (s : State) : State := (s.writeByte ea v).nzv0 v

/-- `MemWrite(ea, 2, v)` and the flags of a store (R141, R153). -/
def store16 (ea : Word) (v : Word) (s : State) : State := (s.writeWord ea v).nzv0 v

/-- STAA (R151). -/
def execStaa (ad : MemOp) (s : State) : Result := withMemOp 1 ad (fun ea t => store8 ea t.a t) s

/-- STAB (R152). -/
def execStab (ad : MemOp) (s : State) : Result := withMemOp 1 ad (fun ea t => store8 ea t.b t) s

/-- STD (R153). -/
def execStd (ad : MemOp) (s : State) : Result := withMemOp 1 ad (fun ea t => store16 ea t.d t) s

/-- STS (R154). -/
def execSts (ad : MemOp) (s : State) : Result := withMemOp 1 ad (fun ea t => store16 ea t.sp t) s

/-- STX (R155). -/
def execStx (ad : MemOp) (s : State) : Result := withMemOp 1 ad (fun ea t => store16 ea t.x t) s

/-- STY (R156). -/
def execSty (ad : MemOp) (s : State) : Result := withMemOp 1 ad (fun ea t => store16 ea t.y t) s

/-- TAB (R157). -/
def execTab (s : State) : Result := inherent 2 (fun t => { t with b := t.a }.nzv0 t.a) s

/-- TBA (R158). -/
def execTba (s : State) : Result := inherent 2 (fun t => { t with a := t.b }.nzv0 t.b) s

/-- MOVB (R173): source address and its adjustment, read, then destination address and its adjustment, write
(92_eei_decisions.md D10). -/
def execMovb (src : MovSrc8) (dst : ExtIdx) (s : State) : Result :=
  let npc := s.npc (2 + src.len + dst.len)
  let v := src.value npc s
  let t := src.side npc s
  let da := dst.ea npc t
  .next { (dst.side npc t).writeByte da v with pc := npc }

/-- MOVW (R174): the order of MOVB. -/
def execMovw (src : MovSrc16) (dst : ExtIdx) (s : State) : Result :=
  let npc := s.npc (2 + src.len + dst.len)
  let v := src.value npc s
  let t := src.side npc s
  let da := dst.ea npc t
  .next { (dst.side npc t).writeWord da v with pc := npc }

end Sys2Proof.Machine
end

