-- ==== Sys2Proof/Machine/Logic.lean ====
section
/-! DEFINITION. Boolean logic, bit manipulation, condition-code instructions (42_logic_bit_shift.md R260 to R278). -/

namespace Sys2Proof.Machine

/-- `logic8(res)`: N and Z from the result, V cleared (R260). -/
def State.logic8 (s : State) (res : Byte) : State := { s with ccr := s.ccr.nzv0 res }

/-- ANDA (R261). -/
def execAnda (src : Src8) (s : State) : Result :=
  withSrc8 src (fun m t => { t with a := t.a &&& m }.logic8 (t.a &&& m)) s

/-- ANDB (R262). -/
def execAndb (src : Src8) (s : State) : Result :=
  withSrc8 src (fun m t => { t with b := t.b &&& m }.logic8 (t.b &&& m)) s

/-- ORAA (R263). -/
def execOraa (src : Src8) (s : State) : Result :=
  withSrc8 src (fun m t => { t with a := t.a ||| m }.logic8 (t.a ||| m)) s

/-- ORAB (R264). -/
def execOrab (src : Src8) (s : State) : Result :=
  withSrc8 src (fun m t => { t with b := t.b ||| m }.logic8 (t.b ||| m)) s

/-- EORA (R265). -/
def execEora (src : Src8) (s : State) : Result :=
  withSrc8 src (fun m t => { t with a := t.a ^^^ m }.logic8 (t.a ^^^ m)) s

/-- EORB (R266). -/
def execEorb (src : Src8) (s : State) : Result :=
  withSrc8 src (fun m t => { t with b := t.b ^^^ m }.logic8 (t.b ^^^ m)) s

/-- BITA (R267). -/
def execBita (src : Src8) (s : State) : Result :=
  withSrc8 src (fun m t => t.logic8 (t.a &&& m)) s

/-- BITB (R268). -/
def execBitb (src : Src8) (s : State) : Result :=
  withSrc8 src (fun m t => t.logic8 (t.b &&& m)) s

/-- BCLR (R269): the write happens whatever the mask. -/
def execBclr (ad : MemOp) (mm : Byte) (s : State) : Result :=
  withMemOp 2 ad (modify8 (fun m => m &&& ~~~mm) (fun m t => t.logic8 (m &&& ~~~mm))) s

/-- BSET (R270). -/
def execBset (ad : MemOp) (mm : Byte) (s : State) : Result :=
  withMemOp 2 ad (modify8 (fun m => m ||| mm) (fun m t => t.logic8 (m ||| mm))) s

/-- `i_delay` after an instruction that may clear I (10_state.md R36; log 12). -/
def State.delayIfCleared (t : State) (s : State) : State := { t with iDelay := s.ccr.i && !t.ccr.i }

/-- ANDCC (R271). -/
def execAndcc (ii : Byte) (s : State) : Result :=
  inherent 2 (fun t => (t.writeCcr (t.ccr.toByte &&& ii)).delayIfCleared t) s

/-- ORCC (R272): X cannot be set. -/
def execOrcc (ii : Byte) (s : State) : Result :=
  inherent 2 (fun t => t.writeCcr (t.ccr.toByte ||| ii)) s

/-- CLC (R273). -/
def execClc (s : State) : Result :=
  inherent 2 (fun t => { t with ccr := { t.ccr with c := false } }.delayIfCleared t) s

/-- CLI (R274). -/
def execCli (s : State) : Result :=
  inherent 2 (fun t => { t with ccr := { t.ccr with i := false } }.delayIfCleared t) s

/-- CLV (R275). -/
def execClv (s : State) : Result :=
  inherent 2 (fun t => { t with ccr := { t.ccr with v := false } }.delayIfCleared t) s

/-- SEC (R276). -/
def execSec (s : State) : Result :=
  inherent 2 (fun t => { t with ccr := { t.ccr with c := true } }) s

/-- SEI (R277). -/
def execSei (s : State) : Result :=
  inherent 2 (fun t => { t with ccr := { t.ccr with i := true } }) s

/-- SEV (R278). -/
def execSev (s : State) : Result :=
  inherent 2 (fun t => { t with ccr := { t.ccr with v := true } }) s

end Sys2Proof.Machine
end

