-- ==== Sys2Proof/Machine/MinMax.lean ====
section
/-! DEFINITION. Minimum, maximum and table interpolation (44_fuzzy_minmax_table.md R354 to R366). -/

namespace Sys2Proof.Machine

/-- MAXA (R355). -/
def execMaxa (i : Idx) (s : State) : Result :=
  withIdx 2 i (fun ea t =>
    let m := t.readByte ea
    let r := subFlags t.a m false
    { t.touch ea with a := if r.c then m else t.a }.nzvc r) s

/-- MINA (R356). -/
def execMina (i : Idx) (s : State) : Result :=
  withIdx 2 i (fun ea t =>
    let m := t.readByte ea
    let r := subFlags t.a m false
    { t.touch ea with a := if r.c then t.a else m }.nzvc r) s

/-- MAXM (R357): the kept value is written in both cases (R354(d)). -/
def execMaxm (i : Idx) (s : State) : Result :=
  withIdx 2 i (fun ea t =>
    let m := t.readByte ea
    let r := subFlags t.a m false
    ((t.touch ea).writeByte ea (if r.c then m else t.a)).nzvc r) s

/-- MINM (R358). -/
def execMinm (i : Idx) (s : State) : Result :=
  withIdx 2 i (fun ea t =>
    let m := t.readByte ea
    let r := subFlags t.a m false
    ((t.touch ea).writeByte ea (if r.c then t.a else m)).nzvc r) s

/-- EMAXD (R359). -/
def execEmaxd (i : Idx) (s : State) : Result :=
  withIdx 2 i (fun ea t =>
    let m := t.readWord ea
    let r := subFlags t.d m false
    ((t.touchWord ea).setD (if r.c then m else t.d)).nzvc r) s

/-- EMIND (R360). -/
def execEmind (i : Idx) (s : State) : Result :=
  withIdx 2 i (fun ea t =>
    let m := t.readWord ea
    let r := subFlags t.d m false
    ((t.touchWord ea).setD (if r.c then t.d else m)).nzvc r) s

/-- EMAXM (R361). -/
def execEmaxm (i : Idx) (s : State) : Result :=
  withIdx 2 i (fun ea t =>
    let m := t.readWord ea
    let r := subFlags t.d m false
    ((t.touchWord ea).writeWord ea (if r.c then m else t.d)).nzvc r) s

/-- EMINM (R362). -/
def execEminm (i : Idx) (s : State) : Result :=
  withIdx 2 i (fun ea t =>
    let m := t.readWord ea
    let r := subFlags t.d m false
    ((t.touchWord ea).writeWord ea (if r.c then t.d else m)).nzvc r) s

/-- The intermediate value `P = b * (Y2 - Y1)`, exact (R363; log 17). -/
def interpProduct {w : Nat} (y1 y2 : BitVec w) (b : Byte) : Int := (b.toNat : Int) * ((y2.toNat : Int) - (y1.toNat : Int))

/-- The result of `interp_n`: the integer part of P rounded down (R363). -/
def interpResult {w : Nat} (y1 y2 : BitVec w) (b : Byte) : BitVec w :=
  BitVec.ofInt w ((y1.toNat : Int) + Int.fdiv (interpProduct y1 y2 b) 256)

/-- The C flag of `interp_n`: bit 7 of the fraction (R363, R366). -/
def interpCarry {w : Nat} (y1 y2 : BitVec w) (b : Byte) : Bool :=
  decide (128 ≤ Int.fmod (interpProduct y1 y2 b) 256)

/-- N, Z from the result and C as given; V kept (R364). -/
def State.nzc {w : Nat} (s : State) (res : BitVec w) (c : Bool) : State :=
  { s with ccr := { s.ccr.nz res with c := c } }

/-- TBL (R364). -/
def execTbl (i : Idx) (s : State) : Result :=
  withIdx 2 i (fun ea t =>
    let y1 := t.readByte ea
    let u := t.touch ea
    let y2 := u.readByte (ea + 1)
    { u.touch (ea + 1) with a := interpResult y1 y2 t.b }.nzc (interpResult y1 y2 t.b) (interpCarry y1 y2 t.b)) s

/-- ETBL (R365): B is read before D is written. -/
def execEtbl (i : Idx) (s : State) : Result :=
  withIdx 2 i (fun ea t =>
    let y1 := t.readWord ea
    let u := t.touchWord ea
    let y2 := u.readWord (ea + 2)
    ((u.touchWord (ea + 2)).setD (interpResult y1 y2 t.b)).nzc (interpResult y1 y2 t.b) (interpCarry y1 y2 t.b)) s

end Sys2Proof.Machine
end

