-- ==== Sys2Proof/Machine/MulDiv.lean ====
section
/-! DEFINITION. Multiplication, division and multiply-accumulate (43_muldiv.md R320 to R330). Exact arithmetic on Nat and
Int, narrowed at the end. -/

namespace Sys2Proof.Machine

/-- The high word of a 32-bit value. -/
def hiWord (v : BitVec 32) : Word := v.extractLsb' 16 16

/-- The low word of a 32-bit value. -/
def loWord (v : BitVec 32) : Word := v.extractLsb' 0 16

/-- `Y : D` (R320(d)). -/
def State.yd (s : State) : BitVec 32 := s.y ++ s.d

/-- `Y : D <- p`. -/
def State.setYD (s : State) (p : BitVec 32) : State := { s.setD (loWord p) with y := hiWord p }

/-- MUL (R322): C from bit 7 of the product, no other flag. -/
def execMul (s : State) : Result :=
  inherent 1 (fun t =>
    let p := BitVec.ofNat 16 (t.a.toNat * t.b.toNat)
    { t.setD p with ccr := { t.ccr with c := p.getLsbD 7 } }) s

/-- The product of EMUL and EMULS stored, N, Z and C set, V kept (R323, R324). -/
def State.setProduct (t : State) (p : BitVec 32) : State :=
  { t.setYD p with ccr := { t.ccr with n := p.msb, z := p == 0, c := p.getLsbD 15 } }

/-- EMUL (R323). -/
def execEmul (s : State) : Result :=
  inherent 1 (fun t => t.setProduct (BitVec.ofNat 32 (t.d.toNat * t.y.toNat))) s

/-- EMULS (R324). -/
def execEmuls (s : State) : Result :=
  inherent 2 (fun t => t.setProduct (BitVec.ofInt 32 (t.d.toInt * t.y.toInt))) s

/-- Division by zero in EDIV, EDIVS and IDIVS: C set; N, Z, V free (U2); the registers kept. -/
def State.divideByZero (t : State) : State :=
  (t.setNzvc (t.freeBit 0) (t.freeBit 1) (t.freeBit 2) true).drew 3

/-- Overflow in EDIV, EDIVS and IDIVS: V set, C cleared; N and Z free (U2). -/
def State.divideOverflow (t : State) : State :=
  (t.setNzvc (t.freeBit 0) (t.freeBit 1) true false).drew 2

/-- EDIV (R325). -/
def execEdiv (s : State) : Result :=
  inherent 1 (fun t =>
    let n := t.yd.toNat
    let d := t.x.toNat
    if d = 0 then t.divideByZero
    else if 0xFFFF < n / d then t.divideOverflow
    else
      let q := BitVec.ofNat 16 (n / d)
      { t.setD (BitVec.ofNat 16 (n % d)) with y := q }.setNzvc q.msb (q == 0) false false) s

/-- EDIVS (R326): the quotient truncated toward zero, the remainder with the sign of the dividend (R321; log 15). -/
def execEdivs (s : State) : Result :=
  inherent 2 (fun t =>
    let n := t.yd.toInt
    let d := t.x.toInt
    if d = 0 then t.divideByZero
    else
      let q := Int.tdiv n d
      if 32767 < q ∨ q < -32768 then t.divideOverflow
      else
        { t.setD (BitVec.ofInt 16 (Int.tmod n d)) with y := BitVec.ofInt 16 q }.setNzvc
          (decide (q < 0)) (decide (q = 0)) false false) s

/-- Z, V and C as given, N kept: FDIV and IDIV. -/
def State.setZvc (s : State) (z v c : Bool) : State := { s with ccr := { s.ccr with z := z, v := v, c := c } }

/-- Quotient $FFFF and an indeterminate remainder (R327, R328; U8). -/
def State.quotientSaturated (t : State) : State := ({ t.setD (t.freeWord 0) with x := 0xFFFF }).drew 1

/-- FDIV (R327). -/
def execFdiv (s : State) : Result :=
  inherent 2 (fun t =>
    let n := t.d.toNat
    let d := t.x.toNat
    if d ≤ n then t.quotientSaturated.setZvc false true (decide (d = 0))
    else
      let q := n * 65536 / d
      { t.setD (BitVec.ofNat 16 (n * 65536 % d)) with x := BitVec.ofNat 16 q }.setZvc (decide (q = 0)) false false) s

/-- IDIV (R328). -/
def execIdiv (s : State) : Result :=
  inherent 2 (fun t =>
    let n := t.d.toNat
    let d := t.x.toNat
    if d = 0 then t.quotientSaturated.setZvc false false true
    else
      { t.setD (BitVec.ofNat 16 (n % d)) with x := BitVec.ofNat 16 (n / d) }.setZvc
        (decide (n / d = 0)) false false) s

/-- IDIVS (R329): after the one overflow X and D are constants the device fixes (U9; log 16). -/
def execIdivs (s : State) : Result :=
  inherent 2 (fun t =>
    let n := t.d.toInt
    let d := t.x.toInt
    if d = 0 then t.divideByZero
    else
      let q := Int.tdiv n d
      if 32767 < q then { t.setD Config.idivsOverflowD with x := Config.idivsOverflowX }.divideOverflow
      else
        { t.setD (BitVec.ofInt 16 (Int.tmod n d)) with x := BitVec.ofInt 16 q }.setNzvc
          (decide (q < 0)) (decide (q = 0)) false false) s

/-- The value `MemRead(a, 4)` returns (20_memory.md R62, R64). -/
def State.readLong (s : State) (a : Word) : BitVec 32 := s.readWord a ++ (s.touchWord a).readWord (a + 2)

/-- The state after `MemRead(a, 4)` (20_memory.md R64, R65). -/
def State.touchLong (s : State) (a : Word) : State := (s.touchWord a).touchWord (a + 2)

/-- `MemWrite(a, 4, v)` (20_memory.md R62). -/
def State.writeLong (s : State) (a : Word) (v : BitVec 32) : State :=
  (s.writeWord a (hiWord v)).writeWord (a + 2) (loWord v)

/-- EMACS (R330): the words at X and Y and the accumulator are read in this order, then it is written; C is the carry from the
low word to the high word. -/
def execEmacs (hhll : Word) (s : State) : Result :=
  inherent 4 (fun t =>
    let u := t.touchWord t.x
    let i := BitVec.ofInt 32 ((t.readWord t.x).toInt * (u.readWord t.y).toInt)
    let v := u.touchWord t.y
    let acc := v.readLong hhll
    let res := acc + i
    ((v.touchLong hhll).writeLong hhll res).setNzvc res.msb (res == 0) (acc.msb == i.msb && res.msb != acc.msb)
      (decide (65536 ≤ acc.toNat % 65536 + i.toNat % 65536))) s

end Sys2Proof.Machine
end

