-- ==== Sys2Proof/Machine/Fetch.lean ====
section
/-! DEFINITION. The bytes an instruction is read from (30_encoding.md R90; 20_memory.md R78). -/

namespace Sys2Proof.Machine

/-- The addresses of the six bytes at the PC, as many as the longest instruction has (30_encoding.md R92). -/
def fetchAddrs (pc : Word) : List Word := [pc, pc + 1, pc + 2, pc + 3, pc + 4, pc + 5]

/-- The six bytes at the PC, read from memory when the instruction starts (20_memory.md R78; log 13). -/
def fetchBytes (s : State) : List Byte := (fetchAddrs s.pc).map s.readByte

end Sys2Proof.Machine
end

