-- ==== Sys2Proof/Machine/System.lean ====
section
/-! DEFINITION. SWI, TRAP, RTI, WAI, STOP, BGND and NOP (47_system.md R480 to R496). -/

namespace Sys2Proof.Machine

/-- SWI (R481): vector $FFF6, the return address is the byte after it. -/
def execSwi (s : State) : Result := .next (s.exceptionEntry 0xFFF6 (s.npc 1) false)

/-- TRAP (R482): vector $FFF8, the return address is two bytes on, whatever follows. -/
def execTrap (_tn : Byte) (s : State) : Result := .next (s.exceptionEntry 0xFFF8 (s.npc 2) false)

/-- RTI (R483, R484). -/
def execRti (s : State) : Result := .next s.returnFromInterrupt

/-- WAI (R488): the frame is stacked and the CPU waits; the PC has no meaning until it leaves WAIT and is not written. -/
def execWai (s : State) : Result := .next { s.stackFrame (s.npc 1) with run := .wait }

/-- STOP (R489): a null operation while S is set; else the frame is stacked and all clocks stop. -/
def execStop (s : State) : Result :=
  if s.ccr.s then .next { s with pc := s.npc 2 }
  else .next { s.stackFrame (s.npc 2) with run := .stopped }

/-- BGND (R494): the byte at the PC is looked at again, it is BGND's own $00, so TMP2 receives the address after it; active
background debug mode if BDM is enabled, else the next instruction. -/
def execBgnd (s : State) : Result :=
  let t := { s.touch s.pc with tmp2 := s.npc 1, tmp2Known := true }
  if s.dev.bdmEnabled then .next { t with run := .bdmActive }
  else .next { t with pc := s.npc 1 }

/-- NOP (R496). -/
def execNop (s : State) : Result := inherent 1 id s

end Sys2Proof.Machine
end

