-- ==== Sys2Proof/Machine/Prebyte.lean ====
section
/-! DEFINITION. The page-2 prebyte (30_encoding.md R91): it is no instruction, it selects opcode page 2, and what it does is
what the page-2 instruction it begins does (log 28). -/

namespace Sys2Proof.Machine

/-- The meaning of a page-2 instruction, by its opcode's row of 30_encoding.md R121. `none` for a term of page 1. -/
def page2Meaning (i : Instr) (s : State) : Option Result :=
  match i with
  | .movw src dst => some (execMovw src dst s)
  | .movb src dst => some (execMovb src dst s)
  | .aba => some (execAba s)
  | .daa => some (execDaa s)
  | .tab => some (execTab s)
  | .tba => some (execTba s)
  | .idiv => some (execIdiv s)
  | .fdiv => some (execFdiv s)
  | .emacs hhll => some (execEmacs hhll s)
  | .emuls => some (execEmuls s)
  | .edivs => some (execEdivs s)
  | .idivs => some (execIdivs s)
  | .sba => some (execSba s)
  | .cba => some (execCba s)
  | .maxa i => some (execMaxa i s)
  | .mina i => some (execMina i s)
  | .emaxd i => some (execEmaxd i s)
  | .emind i => some (execEmind i s)
  | .maxm i => some (execMaxm i s)
  | .minm i => some (execMinm i s)
  | .emaxm i => some (execEmaxm i s)
  | .eminm i => some (execEminm i s)
  | .lbra qqrr => some (execLbra qqrr s)
  | .lbrn qqrr => some (execLbrn qqrr s)
  | .lbhi qqrr => some (execLbhi qqrr s)
  | .lbls qqrr => some (execLbls qqrr s)
  | .lbcc qqrr => some (execLbcc qqrr s)
  | .lbcs qqrr => some (execLbcs qqrr s)
  | .lbne qqrr => some (execLbne qqrr s)
  | .lbeq qqrr => some (execLbeq qqrr s)
  | .lbvc qqrr => some (execLbvc qqrr s)
  | .lbvs qqrr => some (execLbvs qqrr s)
  | .lbpl qqrr => some (execLbpl qqrr s)
  | .lbmi qqrr => some (execLbmi qqrr s)
  | .lbge qqrr => some (execLbge qqrr s)
  | .lblt qqrr => some (execLblt qqrr s)
  | .lbgt qqrr => some (execLbgt qqrr s)
  | .lble qqrr => some (execLble qqrr s)
  | .rev => some (execRev s)
  | .revw => some (execRevw s)
  | .wav => some (execWav s)
  | .tbl i => some (execTbl i s)
  | .stop => some (execStop s)
  | .etbl i => some (execEtbl i s)
  | .trap tn => some (execTrap tn s)
  | _ => none

/-- The prebyte: the instruction whose page-2 opcode and operands follow it in memory. It is refused exactly where those
bytes are (30_encoding.md R110, U5). -/
def execPage2Prebyte (s : State) : Result :=
  match decodePage2 (fetchBytes s).tail with
  | .error e => .refused (.undecodable e)
  | .ok (i, _) => (page2Meaning i s).getD (.refused (.undecodable .truncated))

end Sys2Proof.Machine
end

