-- ==== Sys2Proof/Machine/Shift.lean ====
section
/-! DEFINITION. Shifts and rotates (42_logic_bit_shift.md R279 to R300). -/

namespace Sys2Proof.Machine

/-- A shifted value and the bit shifted out (R279). -/
structure Shift (w : Nat) where
  res : BitVec w
  cout : Bool
  deriving DecidableEq, Repr

/-- `shl_n` (R279). -/
def shl {w : Nat} (v : BitVec w) : Shift w := ⟨v <<< 1, v.msb⟩

/-- `asr_n` (R279): the sign bit is held. -/
def asr {w : Nat} (v : BitVec w) : Shift w := ⟨v.sshiftRight 1, v.getLsbD 0⟩

/-- `lsr_n` (R279). -/
def lsr {w : Nat} (v : BitVec w) : Shift w := ⟨v >>> 1, v.getLsbD 0⟩

/-- `rol_n` (R279): bit 0 from C. -/
def rol {w : Nat} (cin : Bool) (v : BitVec w) : Shift w := ⟨(v <<< 1) ||| (BitVec.ofBool cin).setWidth w, v.msb⟩

/-- `ror_n` (R279): the top bit from C. -/
def ror {w : Nat} (cin : Bool) (v : BitVec w) : Shift w :=
  ⟨(v >>> 1) ||| ((BitVec.ofBool cin).setWidth w <<< (w - 1)), v.getLsbD 0⟩

/-- `shift_flags` (R279): V is N xor C after the shift. -/
def State.shiftFlags {w : Nat} (s : State) (r : Shift w) : State :=
  s.setNzvc r.res.msb (r.res == 0) (r.res.msb ^^ r.cout) r.cout

/-- A shift or rotate of accumulator A. -/
def shiftA (f : State → Byte → Shift 8) (t : State) : State := { t with a := (f t t.a).res }.shiftFlags (f t t.a)

/-- A shift or rotate of accumulator B. -/
def shiftB (f : State → Byte → Shift 8) (t : State) : State := { t with b := (f t t.b).res }.shiftFlags (f t t.b)

/-- A shift of D. -/
def shiftD (f : State → Word → Shift 16) (t : State) : State := (t.setD (f t t.d).res).shiftFlags (f t t.d)

/-- A shift or rotate in memory: one read, one write, the flags (R260(d)). -/
def shiftMem (f : State → Byte → Shift 8) (ea : Word) (t : State) : State :=
  modify8 (fun m => (f t m).res) (fun m u => u.shiftFlags (f t m)) ea t

/-- ASL (R280). -/
def execAsl (ad : ExtIdx) (s : State) : Result :=
  withExtIdx ad (shiftMem (fun _ => shl)) s

/-- ASLA (R281). -/
def execAsla (s : State) : Result :=
  inherent 1 (shiftA (fun _ => shl)) s

/-- ASLB (R282). -/
def execAslb (s : State) : Result :=
  inherent 1 (shiftB (fun _ => shl)) s

/-- ASLD (R283). -/
def execAsld (s : State) : Result :=
  inherent 1 (shiftD (fun _ => shl)) s

/-- ASR (R284). -/
def execAsr (ad : ExtIdx) (s : State) : Result :=
  withExtIdx ad (shiftMem (fun _ => asr)) s

/-- ASRA (R285). -/
def execAsra (s : State) : Result :=
  inherent 1 (shiftA (fun _ => asr)) s

/-- ASRB (R286). -/
def execAsrb (s : State) : Result :=
  inherent 1 (shiftB (fun _ => asr)) s

/-- LSL (R287). -/
def execLsl (ad : ExtIdx) (s : State) : Result :=
  withExtIdx ad (shiftMem (fun _ => shl)) s

/-- LSLA (R288). -/
def execLsla (s : State) : Result :=
  inherent 1 (shiftA (fun _ => shl)) s

/-- LSLB (R289). -/
def execLslb (s : State) : Result :=
  inherent 1 (shiftB (fun _ => shl)) s

/-- LSLD (R290). -/
def execLsld (s : State) : Result :=
  inherent 1 (shiftD (fun _ => shl)) s

/-- LSR (R291). -/
def execLsr (ad : ExtIdx) (s : State) : Result :=
  withExtIdx ad (shiftMem (fun _ => lsr)) s

/-- LSRA (R292). -/
def execLsra (s : State) : Result :=
  inherent 1 (shiftA (fun _ => lsr)) s

/-- LSRB (R293). -/
def execLsrb (s : State) : Result :=
  inherent 1 (shiftB (fun _ => lsr)) s

/-- LSRD (R294). -/
def execLsrd (s : State) : Result :=
  inherent 1 (shiftD (fun _ => lsr)) s

/-- ROL (R295). -/
def execRol (ad : ExtIdx) (s : State) : Result :=
  withExtIdx ad (shiftMem (fun u => rol u.ccr.c)) s

/-- ROLA (R296). -/
def execRola (s : State) : Result :=
  inherent 1 (shiftA (fun u => rol u.ccr.c)) s

/-- ROLB (R297). -/
def execRolb (s : State) : Result :=
  inherent 1 (shiftB (fun u => rol u.ccr.c)) s

/-- ROR (R298). -/
def execRor (ad : ExtIdx) (s : State) : Result :=
  withExtIdx ad (shiftMem (fun u => ror u.ccr.c)) s

/-- RORA (R299). -/
def execRora (s : State) : Result :=
  inherent 1 (shiftA (fun u => ror u.ccr.c)) s

/-- RORB (R300). -/
def execRorb (s : State) : Result :=
  inherent 1 (shiftB (fun u => ror u.ccr.c)) s

end Sys2Proof.Machine
end

