-- ==== Sys2Proof/Machine/Transfer.lean ====
section
/-! DEFINITION. The universal transfer and exchange instruction and its second names
(40_load_store_transfer_move.md R159 to R172). -/

namespace Sys2Proof

open Sys2Proof.Machine

/-- A, B and CCR are 8 bits wide, the others 16 (R159). -/
def XReg.is8 : XReg → Bool
  | .a => true
  | .b => true
  | .ccr => true
  | .tmp => false
  | .d => false
  | .x => false
  | .y => false
  | .sp => false

/-- The value of a register code, an 8-bit one as `$00:v`; code 3 is TMP3 as the first register and TMP2 as the second
(R160, R164). -/
def XReg.read (r : XReg) (first : Bool) (s : State) : Word :=
  match r with
  | .a => zext8 s.a
  | .b => zext8 s.b
  | .ccr => zext8 s.ccr.toByte
  | .tmp => if first then s.tmp3Value else s.tmp2Value
  | .d => s.d
  | .x => s.x
  | .y => s.y
  | .sp => s.sp

/-- A write of a register code; an 8-bit register takes the low byte, the CCR through `write_ccr` (R160, R162). -/
def XReg.write (r : XReg) (first : Bool) (v : Word) (s : State) : State :=
  match r with
  | .a => { s with a := loByte v }
  | .b => { s with b := loByte v }
  | .ccr => s.writeCcr (loByte v)
  | .tmp => if first then { s with tmp3 := v, tmp3Known := true } else { s with tmp2 := v, tmp2Known := true }
  | .d => s.setD v
  | .x => { s with x := v }
  | .y => { s with y := v }
  | .sp => { s with sp := v }

end Sys2Proof

namespace Sys2Proof.Machine

/-- `i_delay` after an instruction that may write the CCR from data: set when I went from 1 to 0 (10_state.md R36; log 12). -/
def State.armDelay (t : State) (s : State) : State := { t with iDelay := s.ccr.i && !t.ccr.i }

/-- Free values drawn by a transfer or exchange that names a temporary register. -/
def State.drewIf (s : State) (used : Bool) : State := if used then s.drew 2 else s

/-- TFR r1,r2: 8 to 16 bits sign-extends, 16 to 8 takes the low byte (R160). -/
def transferOp (src dst : XReg) (s : State) : State :=
  let v := src.read true s
  let w := if src.is8 && !dst.is8 then sext8 (loByte v) else v
  ((dst.write false w s).drewIf (src == .tmp)).armDelay s

/-- What the first register of EXG receives: the second, an 8-bit one filled with $00 (A) or $FF (B, CCR) above (R163). -/
def exchangeFill (r1 r2 : XReg) (o2 : Word) : Word :=
  if !r1.is8 && r2.is8 then word (if r2 == .a then 0x00 else 0xFF) (loByte o2) else o2

/-- EXG r1,r2: both read before either is written; the second register is written last, which settles the cells where D
overlaps A or B as the table of R163 prints them. -/
def exchangeOp (r1 r2 : XReg) (s : State) : State :=
  let o1 := r1.read true s
  let o2 := r2.read false s
  ((r2.write false o1 (r1.write true (exchangeFill r1 r2 o2) s)).drewIf (r1 == .tmp || r2 == .tmp)).armDelay s

/-- TFR (R160, R162, R164). -/
def execTfr (src dst : XReg) (s : State) : Result := inherent 2 (transferOp src dst) s

/-- SEX (R161), the sign-extending cells of TFR. -/
def execSex (src : SexSrc) (dst : SexDst) (s : State) : Result := inherent 2 (transferOp src.reg dst.reg) s

/-- EXG (R163, R164). -/
def execExg (src dst : XReg) (s : State) : Result := inherent 2 (exchangeOp src dst) s

/-- TAP (R165). -/
def execTap (s : State) : Result := inherent 2 (fun t => (t.writeCcr t.a).armDelay t) s

/-- TPA (R166). -/
def execTpa (s : State) : Result := inherent 2 (fun t => { t with a := t.ccr.toByte }.armDelay t) s

/-- TSX (R167). -/
def execTsx (s : State) : Result := inherent 2 (fun t => { t with x := t.sp }.armDelay t) s

/-- TSY (R168). -/
def execTsy (s : State) : Result := inherent 2 (fun t => { t with y := t.sp }.armDelay t) s

/-- TXS (R169). -/
def execTxs (s : State) : Result := inherent 2 (fun t => { t with sp := t.x }.armDelay t) s

/-- TYS (R170). -/
def execTys (s : State) : Result := inherent 2 (fun t => { t with sp := t.y }.armDelay t) s

/-- XGDX (R171). -/
def execXgdx (s : State) : Result := inherent 2 (fun t => { t.setD t.x with x := t.d }.armDelay t) s

/-- XGDY (R172). -/
def execXgdy (s : State) : Result := inherent 2 (fun t => { t.setD t.y with y := t.d }.armDelay t) s

end Sys2Proof.Machine
end

