-- ==== Sys2Proof/Machine/Dispatch.lean ====
section
/-! DEFINITION. One arm per constructor of `Instr`: the meaning of every instruction. -/

namespace Sys2Proof.Machine

/-- What an instruction does to the state that finds it at its PC. -/
def exec (i : Instr) (s : State) : Host.Outcome State Fault Refusal :=
  match i with
  | .bgnd => Sys2Proof.Machine.execBgnd s
  | .mem => Sys2Proof.Machine.execMem s
  | .iny => Sys2Proof.Machine.execIny s
  | .dey => Sys2Proof.Machine.execDey s
  | .dbeq r off => Sys2Proof.Machine.execDbeq r off s
  | .dbne r off => Sys2Proof.Machine.execDbne r off s
  | .tbeq r off => Sys2Proof.Machine.execTbeq r off s
  | .tbne r off => Sys2Proof.Machine.execTbne r off s
  | .ibeq r off => Sys2Proof.Machine.execIbeq r off s
  | .ibne r off => Sys2Proof.Machine.execIbne r off s
  | .unassignedLoopPostbyte lb rr => Sys2Proof.Machine.execUnassignedLoopPostbyte lb rr s
  | .jmp ad => Sys2Proof.Machine.execJmp ad s
  | .bsr rr => Sys2Proof.Machine.execBsr rr s
  | .inx => Sys2Proof.Machine.execInx s
  | .dex => Sys2Proof.Machine.execDex s
  | .rtc => Sys2Proof.Machine.execRtc s
  | .rti => Sys2Proof.Machine.execRti s
  | .bset ad mm => Sys2Proof.Machine.execBset ad mm s
  | .bclr ad mm => Sys2Proof.Machine.execBclr ad mm s
  | .brset ad mm rr => Sys2Proof.Machine.execBrset ad mm rr s
  | .brclr ad mm rr => Sys2Proof.Machine.execBrclr ad mm rr s
  | .andcc ii => Sys2Proof.Machine.execAndcc ii s
  | .ediv => Sys2Proof.Machine.execEdiv s
  | .mul => Sys2Proof.Machine.execMul s
  | .emul => Sys2Proof.Machine.execEmul s
  | .orcc ii => Sys2Proof.Machine.execOrcc ii s
  | .jsr ad => Sys2Proof.Machine.execJsr ad s
  | .page2Prebyte => Sys2Proof.Machine.execPage2Prebyte s
  | .leay ix => Sys2Proof.Machine.execLeay ix s
  | .leax ix => Sys2Proof.Machine.execLeax ix s
  | .leas ix => Sys2Proof.Machine.execLeas ix s
  | .bra rr => Sys2Proof.Machine.execBra rr s
  | .brn rr => Sys2Proof.Machine.execBrn rr s
  | .bhi rr => Sys2Proof.Machine.execBhi rr s
  | .bls rr => Sys2Proof.Machine.execBls rr s
  | .bcc rr => Sys2Proof.Machine.execBcc rr s
  | .bcs rr => Sys2Proof.Machine.execBcs rr s
  | .bne rr => Sys2Proof.Machine.execBne rr s
  | .beq rr => Sys2Proof.Machine.execBeq rr s
  | .bvc rr => Sys2Proof.Machine.execBvc rr s
  | .bvs rr => Sys2Proof.Machine.execBvs rr s
  | .bpl rr => Sys2Proof.Machine.execBpl rr s
  | .bmi rr => Sys2Proof.Machine.execBmi rr s
  | .bge rr => Sys2Proof.Machine.execBge rr s
  | .blt rr => Sys2Proof.Machine.execBlt rr s
  | .bgt rr => Sys2Proof.Machine.execBgt rr s
  | .ble rr => Sys2Proof.Machine.execBle rr s
  | .bhs rr => Sys2Proof.Machine.execBhs rr s
  | .blo rr => Sys2Proof.Machine.execBlo rr s
  | .pulx => Sys2Proof.Machine.execPulx s
  | .puly => Sys2Proof.Machine.execPuly s
  | .pula => Sys2Proof.Machine.execPula s
  | .pulb => Sys2Proof.Machine.execPulb s
  | .pshx => Sys2Proof.Machine.execPshx s
  | .pshy => Sys2Proof.Machine.execPshy s
  | .psha => Sys2Proof.Machine.execPsha s
  | .pshb => Sys2Proof.Machine.execPshb s
  | .pulc => Sys2Proof.Machine.execPulc s
  | .pshc => Sys2Proof.Machine.execPshc s
  | .puld => Sys2Proof.Machine.execPuld s
  | .pshd => Sys2Proof.Machine.execPshd s
  | .wavr => Sys2Proof.Machine.execWavr s
  | .rts => Sys2Proof.Machine.execRts s
  | .wai => Sys2Proof.Machine.execWai s
  | .swi => Sys2Proof.Machine.execSwi s
  | .nega => Sys2Proof.Machine.execNega s
  | .coma => Sys2Proof.Machine.execComa s
  | .inca => Sys2Proof.Machine.execInca s
  | .deca => Sys2Proof.Machine.execDeca s
  | .lsra => Sys2Proof.Machine.execLsra s
  | .rola => Sys2Proof.Machine.execRola s
  | .rora => Sys2Proof.Machine.execRora s
  | .asra => Sys2Proof.Machine.execAsra s
  | .asla => Sys2Proof.Machine.execAsla s
  | .lsrd => Sys2Proof.Machine.execLsrd s
  | .lsla => Sys2Proof.Machine.execLsla s
  | .call t => Sys2Proof.Machine.execCall t s
  | .negb => Sys2Proof.Machine.execNegb s
  | .comb => Sys2Proof.Machine.execComb s
  | .incb => Sys2Proof.Machine.execIncb s
  | .decb => Sys2Proof.Machine.execDecb s
  | .lsrb => Sys2Proof.Machine.execLsrb s
  | .rolb => Sys2Proof.Machine.execRolb s
  | .rorb => Sys2Proof.Machine.execRorb s
  | .asrb => Sys2Proof.Machine.execAsrb s
  | .aslb => Sys2Proof.Machine.execAslb s
  | .asld => Sys2Proof.Machine.execAsld s
  | .lslb => Sys2Proof.Machine.execLslb s
  | .lsld => Sys2Proof.Machine.execLsld s
  | .staa ad => Sys2Proof.Machine.execStaa ad s
  | .stab ad => Sys2Proof.Machine.execStab ad s
  | .std ad => Sys2Proof.Machine.execStd ad s
  | .sty ad => Sys2Proof.Machine.execSty ad s
  | .stx ad => Sys2Proof.Machine.execStx ad s
  | .sts ad => Sys2Proof.Machine.execSts ad s
  | .neg ad => Sys2Proof.Machine.execNeg ad s
  | .com ad => Sys2Proof.Machine.execCom ad s
  | .inc ad => Sys2Proof.Machine.execInc ad s
  | .dec ad => Sys2Proof.Machine.execDec ad s
  | .lsr ad => Sys2Proof.Machine.execLsr ad s
  | .rol ad => Sys2Proof.Machine.execRol ad s
  | .ror ad => Sys2Proof.Machine.execRor ad s
  | .asr ad => Sys2Proof.Machine.execAsr ad s
  | .asl ad => Sys2Proof.Machine.execAsl ad s
  | .clr ad => Sys2Proof.Machine.execClr ad s
  | .lsl ad => Sys2Proof.Machine.execLsl ad s
  | .suba src => Sys2Proof.Machine.execSuba src s
  | .cmpa src => Sys2Proof.Machine.execCmpa src s
  | .sbca src => Sys2Proof.Machine.execSbca src s
  | .subd src => Sys2Proof.Machine.execSubd src s
  | .anda src => Sys2Proof.Machine.execAnda src s
  | .bita src => Sys2Proof.Machine.execBita src s
  | .ldaa src => Sys2Proof.Machine.execLdaa src s
  | .eora src => Sys2Proof.Machine.execEora src s
  | .adca src => Sys2Proof.Machine.execAdca src s
  | .oraa src => Sys2Proof.Machine.execOraa src s
  | .adda src => Sys2Proof.Machine.execAdda src s
  | .cpd src => Sys2Proof.Machine.execCpd src s
  | .cpy src => Sys2Proof.Machine.execCpy src s
  | .cpx src => Sys2Proof.Machine.execCpx src s
  | .cps src => Sys2Proof.Machine.execCps src s
  | .subb src => Sys2Proof.Machine.execSubb src s
  | .cmpb src => Sys2Proof.Machine.execCmpb src s
  | .sbcb src => Sys2Proof.Machine.execSbcb src s
  | .addd src => Sys2Proof.Machine.execAddd src s
  | .andb src => Sys2Proof.Machine.execAndb src s
  | .bitb src => Sys2Proof.Machine.execBitb src s
  | .ldab src => Sys2Proof.Machine.execLdab src s
  | .eorb src => Sys2Proof.Machine.execEorb src s
  | .adcb src => Sys2Proof.Machine.execAdcb src s
  | .orab src => Sys2Proof.Machine.execOrab src s
  | .addb src => Sys2Proof.Machine.execAddb src s
  | .ldd src => Sys2Proof.Machine.execLdd src s
  | .ldy src => Sys2Proof.Machine.execLdy src s
  | .ldx src => Sys2Proof.Machine.execLdx src s
  | .lds src => Sys2Proof.Machine.execLds src s
  | .clra => Sys2Proof.Machine.execClra s
  | .tsta => Sys2Proof.Machine.execTsta s
  | .nop => Sys2Proof.Machine.execNop s
  | .tfr src dst => Sys2Proof.Machine.execTfr src dst s
  | .exg src dst => Sys2Proof.Machine.execExg src dst s
  | .sex src dst => Sys2Proof.Machine.execSex src dst s
  | .clrb => Sys2Proof.Machine.execClrb s
  | .tstb => Sys2Proof.Machine.execTstb s
  | .tst ad => Sys2Proof.Machine.execTst ad s
  | .abx => Sys2Proof.Machine.execAbx s
  | .aby => Sys2Proof.Machine.execAby s
  | .clc => Sys2Proof.Machine.execClc s
  | .cli => Sys2Proof.Machine.execCli s
  | .clv => Sys2Proof.Machine.execClv s
  | .sec => Sys2Proof.Machine.execSec s
  | .sei => Sys2Proof.Machine.execSei s
  | .sev => Sys2Proof.Machine.execSev s
  | .des => Sys2Proof.Machine.execDes s
  | .ins => Sys2Proof.Machine.execIns s
  | .tap => Sys2Proof.Machine.execTap s
  | .tpa => Sys2Proof.Machine.execTpa s
  | .tsx => Sys2Proof.Machine.execTsx s
  | .tsy => Sys2Proof.Machine.execTsy s
  | .txs => Sys2Proof.Machine.execTxs s
  | .tys => Sys2Proof.Machine.execTys s
  | .xgdx => Sys2Proof.Machine.execXgdx s
  | .xgdy => Sys2Proof.Machine.execXgdy s
  | .movw src dst => Sys2Proof.Machine.execMovw src dst s
  | .movb src dst => Sys2Proof.Machine.execMovb src dst s
  | .aba => Sys2Proof.Machine.execAba s
  | .daa => Sys2Proof.Machine.execDaa s
  | .tab => Sys2Proof.Machine.execTab s
  | .tba => Sys2Proof.Machine.execTba s
  | .idiv => Sys2Proof.Machine.execIdiv s
  | .fdiv => Sys2Proof.Machine.execFdiv s
  | .emacs hhll => Sys2Proof.Machine.execEmacs hhll s
  | .emuls => Sys2Proof.Machine.execEmuls s
  | .edivs => Sys2Proof.Machine.execEdivs s
  | .idivs => Sys2Proof.Machine.execIdivs s
  | .sba => Sys2Proof.Machine.execSba s
  | .cba => Sys2Proof.Machine.execCba s
  | .maxa ix => Sys2Proof.Machine.execMaxa ix s
  | .mina ix => Sys2Proof.Machine.execMina ix s
  | .emaxd ix => Sys2Proof.Machine.execEmaxd ix s
  | .emind ix => Sys2Proof.Machine.execEmind ix s
  | .maxm ix => Sys2Proof.Machine.execMaxm ix s
  | .minm ix => Sys2Proof.Machine.execMinm ix s
  | .emaxm ix => Sys2Proof.Machine.execEmaxm ix s
  | .eminm ix => Sys2Proof.Machine.execEminm ix s
  | .lbra qqrr => Sys2Proof.Machine.execLbra qqrr s
  | .lbrn qqrr => Sys2Proof.Machine.execLbrn qqrr s
  | .lbhi qqrr => Sys2Proof.Machine.execLbhi qqrr s
  | .lbls qqrr => Sys2Proof.Machine.execLbls qqrr s
  | .lbcc qqrr => Sys2Proof.Machine.execLbcc qqrr s
  | .lbcs qqrr => Sys2Proof.Machine.execLbcs qqrr s
  | .lbne qqrr => Sys2Proof.Machine.execLbne qqrr s
  | .lbeq qqrr => Sys2Proof.Machine.execLbeq qqrr s
  | .lbvc qqrr => Sys2Proof.Machine.execLbvc qqrr s
  | .lbvs qqrr => Sys2Proof.Machine.execLbvs qqrr s
  | .lbpl qqrr => Sys2Proof.Machine.execLbpl qqrr s
  | .lbmi qqrr => Sys2Proof.Machine.execLbmi qqrr s
  | .lbge qqrr => Sys2Proof.Machine.execLbge qqrr s
  | .lblt qqrr => Sys2Proof.Machine.execLblt qqrr s
  | .lbgt qqrr => Sys2Proof.Machine.execLbgt qqrr s
  | .lble qqrr => Sys2Proof.Machine.execLble qqrr s
  | .lbhs qqrr => Sys2Proof.Machine.execLbhs qqrr s
  | .lblo qqrr => Sys2Proof.Machine.execLblo qqrr s
  | .rev => Sys2Proof.Machine.execRev s
  | .revw => Sys2Proof.Machine.execRevw s
  | .wav => Sys2Proof.Machine.execWav s
  | .tbl ix => Sys2Proof.Machine.execTbl ix s
  | .stop => Sys2Proof.Machine.execStop s
  | .etbl ix => Sys2Proof.Machine.execEtbl ix s
  | .trap tn => Sys2Proof.Machine.execTrap tn s

end Sys2Proof.Machine
end

