-- ==== Sys2Proof/Machine/Step.lean ====
section
/-! DEFINITION. One step of the machine (60_exceptions.md R503): the environment's next sample is taken, the boundary is
looked at, and if it does nothing the instruction at the PC is fetched, decoded and executed. A reset may cut either short. -/

namespace Sys2Proof.Machine

/-- The instruction at the PC, executed. -/
def executeNext (s : State) : Host.Outcome State Fault Refusal :=
  match decode (fetchBytes s) with
  | .error e => .refused (.undecodable e)
  | .ok (i, _) =>
    match exec i s with
    | .next t => .next (endInstruction i s t)
    | .fault r => .fault r
    | .refused r => .refused r

/-- The state at the start of a step: the boundary's sample taken, and the limit a reset in the middle of the step puts on
its writes (70_reset_and_hazards.md R551). -/
def State.start (s : State) : State :=
  match s.input.late with
  | none => s.popInput
  | some (_, n) => { s.popInput with writeLimit := some n }

/-- The end of a step that began at `s`: a reset that arrived in the middle of it (70_reset_and_hazards.md R551), and the
devices, which have seen it pass. -/
def State.finish (s t : State) : State :=
  match s.input.late with
  | none => s.elapse t
  | some (r, _) => s.elapse (t.abandon r)

/-- One step (60_exceptions.md R503). -/
def step (s : State) : Host.Outcome State Fault Refusal :=
  match boundary s.start s.input with
  | some t => .next (s.finish t)
  | none =>
    match executeNext s.start with
    | .next t => .next (s.finish t)
    | .fault r => .fault r
    | .refused r => .refused r

/-- Some bytes put into storage at some addresses. -/
def State.withBytes (s : State) : List Word → List Byte → State
  | a :: as, v :: vs => { s with mem := s.mem.write (s.physKey a) v }.withBytes as vs
  | _, _ => s

/-- `s` with the instruction of a row of spec/opcode_table.json stored at the PC (its six bytes, those the row does not give
0), running, and the environment quiet, so that the next step runs it. It stands for loading a program from outside the
machine (log 5). -/
def State.withFetchWord (s : State) (nbits w : Nat) : State :=
  { s with run := .running, inputs := [] }.withBytes (fetchAddrs s.pc) (tableWordBytes nbits w)

end Sys2Proof.Machine
end

