-- ==== Sys2Proof/Safety.lean ====
section
/-! DEFINITION. What the statements are written in: a good state, a completed instruction and its frame, bytes stored, and
the flags as numbers. The flags are written here from 10_state.md R28 to R33 as facts about signed and unsigned numbers, and
not with the functions of Flags.lean. -/

namespace Sys2Proof.Machine

/-! ### States and steps -/

/-- The memory of a state is in its canonical form, and no reset is about to cut its writes short (the model's own fields). -/
def State.Inv (s : State) : Prop := s.mem.wf = true ∧ s.writeLimit = none

/-- The next step answers a state: nothing is refused. -/
def Steps (s : State) : Prop := ∃ t, step s = .next t

/-- A sample of the environment that requests no reset, neither at the boundary nor in the middle of what starts there. -/
def Inputs.NoReset (q : Inputs) : Prop := q.resetVector = none ∧ q.lateReset = none

/-- The next boundary does nothing by itself: the machine runs, no reset, no tag it obeys, no enabled interrupt
(60_exceptions.md R503). -/
def State.Quiet (s : State) : Prop :=
  s.run = .running ∧ s.input.NoReset ∧ (s.input.tag && s.dev.bdmEnabled) = false ∧
    s.interruptPending s.input = none

/-- A sample of the environment that requests neither a reset nor an XIRQ and in which the BDM host changes nothing. -/
def Inputs.Mild (q : Inputs) : Prop := q.NoReset ∧ q.xirq = false ∧ q.bdmWrites = []

/-- Among the requesting sources of the device (those whose number has `req`) `n` has the highest priority: it is the promoted
one, or no promoted one requests and no vector of a requesting one is higher (60_exceptions.md R510; 92_eei_decisions.md
D18). -/
def Device.Selects (d : Device) (req : Nat → Prop) (n : IrqSource) : Prop :=
  n ∈ d.irqSources ∧ req n.number ∧
    ((d.promoted = some n.number ∧ ∀ m ∈ d.irqSources, m.number = n.number → m.vector = n.vector) ∨
      ∀ m ∈ d.irqSources, req m.number → d.promoted ≠ some m.number ∧ m.vector ≤ n.vector)

/-! ### Memory -/

/-- A store to `a` reaches plain storage: it is not PPAGE's own address and no region of MEM_MAP takes it
(20_memory.md R71, R72). -/
def State.Stores (s : State) (a : Word) : Prop :=
  s.dev.ppageAddr ≠ some a ∧ s.dev.kindAt (s.physKey a) = none

/-- `a` is not the address at which PPAGE is memory-mapped, so a store to it leaves PPAGE alone. -/
def State.NotPpage (s : State) (a : Word) : Prop := s.dev.ppageAddr ≠ some a

/-- `a` is no device register (20_memory.md R70). -/
def State.NotRegister (s : State) (a : Word) : Prop := s.dev.kindAt (s.physKey a) ≠ some .register

/-- No two of the `n` addresses from `ea` upwards, mod 2^16, are names of one byte. It is so for at most 65536 addresses
where MEM_MAP has no alias (92_eei_decisions.md D7). -/
def State.Apart (s : State) (ea : Word) (n : Nat) : Prop :=
  ∀ j k, j < n → k < n → j ≠ k → s.physKey (ea + BitVec.ofNat 16 j) ≠ s.physKey (ea + BitVec.ofNat 16 k)

/-- Between `s` and `t` exactly the bytes `vs` were stored from `ea` upwards, mod 2^16. When `s` is as `State.Inv` says and
PPAGE's own address is not among the stored ones: PPAGE is kept; the devices are as they were unless a device register was
stored to; every address that is not a name of a stored byte, and no device register, reads as before; every name of a stored
byte reads as that byte in plain storage, and as before in ROM or unimplemented memory, unless another byte of the same store
went there too (20_memory.md R62, R71). -/
def BytesStored (s t : State) (ea : Word) (vs : List Byte) : Prop :=
  s.Inv → (∀ k, k < vs.length → s.NotPpage (ea + BitVec.ofNat 16 k)) →
    t.ppage = s.ppage ∧ t.writeLimit = none ∧
    ((∀ k, k < vs.length → s.NotRegister (ea + BitVec.ofNat 16 k)) → t.devices = s.devices) ∧
    (∀ a, s.NotRegister a → (∀ k, k < vs.length → s.physKey a ≠ s.physKey (ea + BitVec.ofNat 16 k)) →
      t.readByte a = s.readByte a) ∧
    (∀ a k v, vs[k]? = some v → s.NotPpage a → s.NotRegister a → s.physKey a = s.physKey (ea + BitVec.ofNat 16 k) →
      (∀ j, j < vs.length → j ≠ k → s.physKey (ea + BitVec.ofNat 16 j) ≠ s.physKey a) →
      t.readByte a = if s.dev.kindAt (s.physKey a) = none then v else s.readByte a)

/-- The two bytes of a word, the high-order one first (20_memory.md R61). -/
def wordBE (w : Word) : List Byte := [BitVec.ofNat 8 (w.toNat / 256), BitVec.ofNat 8 w.toNat]

/-! ### Completed instructions -/

/-- `i` completes in the state `t`, and every byte of memory reads as before; a device register too, unless a read that `i`
made has changed the devices (20_memory.md R65). -/
def CompletesInto (i : Instr) (s t : State) : Prop :=
  exec i s = .next t ∧ ∀ a, s.NotRegister a ∨ t.devices = s.devices → t.readByte a = s.readByte a

/-- The `n` addresses from `a` upwards, mod 2^16, are device registers, and PPAGE is at none of them (20_memory.md R70). -/
def State.RegistersFrom (s : State) (a : Word) (n : Nat) : Prop :=
  ∀ k, k < n → s.NotPpage (a + BitVec.ofNat 16 k) ∧ s.dev.kindAt (s.physKey (a + BitVec.ofNat 16 k)) = some .register

/-- `i` completes, and what the devices see of it is one read of each of the addresses `reads`, in their order, and then one
write of each of `writes`, in theirs (20_memory.md R65). -/
def Accesses (i : Instr) (s : State) (reads writes : List Word) : Prop :=
  ∃ t vs, exec i s = .next t ∧ vs.length = writes.length ∧
    t.devices = (writes.zip vs).foldl (fun n w => Config.deviceWrite n (s.physKey w.1) w.2)
      (reads.foldl (fun n a => Config.deviceAfterRead n (s.physKey a)) s.devices)

/-- `t` is `base` but for what byte writes change: memory, PPAGE at its own address, the devices, and what is left of a limit
on writes. -/
def SameButMemory (base t : State) : Prop :=
  t = { base with mem := t.mem, ppage := t.ppage, devices := t.devices, writeLimit := t.writeLimit }

/-- `i` completes; the state it leaves is `base` but for memory, where the bytes `vs` were stored from `ea` upwards. -/
def StoresInto (i : Instr) (s base : State) (ea : Word) (vs : List Byte) : Prop :=
  ∃ t, exec i s = .next t ∧ SameButMemory base t ∧ BytesStored base t ea vs

/-! ### Flags as numbers -/

/-- The value is negative (10_state.md R30). -/
def isNeg {w : Nat} (v : BitVec w) : Bool := decide (v.toInt < 0)

/-- The value is zero (10_state.md R31). -/
def isZero {w : Nat} (v : BitVec w) : Bool := decide (v.toNat = 0)

/-- An exact signed result does not fit `w` bits: two's complement overflow (10_state.md R32). -/
def overflows (w : Nat) (n : Int) : Bool := decide (n < -(2 ^ (w - 1)) ∨ 2 ^ (w - 1) ≤ n)

/-- N and Z from a result. -/
def Ccr.sign {w : Nat} (c : Ccr) (r : BitVec w) : Ccr := { c with n := isNeg r, z := isZero r }

/-- N and Z from a value, V cleared (40_load_store_transfer_move.md R141, 42_logic_bit_shift.md R260). -/
def Ccr.moved {w : Nat} (c : Ccr) (v : BitVec w) : Ccr := { c.sign v with v := false }

/-- N, Z, V, C of `x + y + k`: the signed sum overflows, the unsigned sum carries (00_scope.md R10). -/
def Ccr.summed {w : Nat} (c : Ccr) (x y : BitVec w) (k : Nat) : Ccr :=
  { c.sign (BitVec.ofNat w (x.toNat + y.toNat + k)) with
    v := overflows w (x.toInt + y.toInt + k), c := decide (2 ^ w ≤ x.toNat + y.toNat + k) }

/-- The same, and H the carry out of bit 3 (10_state.md R28). -/
def Ccr.summedH (c : Ccr) (x y : Byte) (k : Nat) : Ccr :=
  { c.summed x y k with h := decide (15 < x.toNat % 16 + y.toNat % 16 + k) }

/-- N, Z, V, C of `x - y - k`: the signed difference overflows, the unsigned one borrows (00_scope.md R10). -/
def Ccr.subtracted {w : Nat} (c : Ccr) (x y : BitVec w) (k : Nat) : Ccr :=
  { c.sign (BitVec.ofInt w (x.toInt - y.toInt - k)) with
    v := overflows w (x.toInt - y.toInt - k), c := decide (x.toNat < y.toNat + k) }

/-- N and Z from the result, C the bit shifted out, V their exclusive or (42_logic_bit_shift.md R279). -/
def Ccr.shifted {w : Nat} (c : Ccr) (r : BitVec w) (out : Bool) : Ccr :=
  { c.sign r with v := isNeg r ^^ out, c := out }

/-- D as a number (10_state.md R21). -/
def State.dNat (s : State) : Nat := 256 * s.a.toNat + s.b.toNat

/-- A and B after D receives `n` mod 2^16. -/
def State.withD (s : State) (n : Nat) : State :=
  { s with a := BitVec.ofNat 8 (n / 256), b := BitVec.ofNat 8 n }

/-! ### Encodings -/

/-- The four opcodes of an instruction with an 8-bit source: immediate, direct, extended, indexed. -/
def EncodedSrc8 (mk : Src8 → Instr) (imm dir ext idx : Byte) : Prop :=
  (∀ ii, encode (mk (.imm ii)) = [imm, ii]) ∧ (∀ dd, encode (mk (.dir dd)) = [dir, dd]) ∧
    (∀ a, encode (mk (.ext a)) = ext :: wordBE a) ∧ ∀ i, encode (mk (.idx i)) = idx :: i.bytes

/-- The four opcodes of an instruction with a 16-bit source. -/
def EncodedSrc16 (mk : Src16 → Instr) (imm dir ext idx : Byte) : Prop :=
  (∀ v, encode (mk (.imm v)) = imm :: wordBE v) ∧ (∀ dd, encode (mk (.dir dd)) = [dir, dd]) ∧
    (∀ a, encode (mk (.ext a)) = ext :: wordBE a) ∧ ∀ i, encode (mk (.idx i)) = idx :: i.bytes

/-- The three opcodes of an instruction on a memory operand, with the bytes that follow the operand. -/
def EncodedMem (mk : MemOp → Instr) (dir ext idx : Byte) (tail : List Byte) : Prop :=
  (∀ dd, encode (mk (.dir dd)) = [dir, dd] ++ tail) ∧ (∀ a, encode (mk (.ext a)) = ext :: wordBE a ++ tail) ∧
    ∀ i, encode (mk (.idx i)) = idx :: i.bytes ++ tail

/-- The two opcodes of an instruction on a memory operand with no direct form. -/
def EncodedExt (mk : ExtIdx → Instr) (ext idx : Byte) : Prop :=
  (∀ a, encode (mk (.ext a)) = ext :: wordBE a) ∧ ∀ i, encode (mk (.idx i)) = idx :: i.bytes

/-! ### Registers, transfers, shifts and sums as numbers -/

/-- Instructions that transfer control, stop, or may be interrupted half way. -/
def mayLeaveLine : Instr → Bool
  | .bgnd | .dbeq _ _ | .dbne _ _ | .tbeq _ _ | .tbne _ _ | .ibeq _ _ | .ibne _ _ | .unassignedLoopPostbyte _ _
  | .jmp _ | .bsr _ | .rtc | .rti | .brset _ _ _ | .brclr _ _ _ | .jsr _ | .page2Prebyte | .bra _ | .brn _ | .bhi _
  | .bls _ | .bcc _ | .bcs _ | .bne _ | .beq _ | .bvc _ | .bvs _ | .bpl _ | .bmi _ | .bge _ | .blt _ | .bgt _ | .ble _
  | .bhs _ | .blo _ | .wavr | .rts | .wai | .swi | .call _ | .lbra _ | .lbrn _ | .lbhi _ | .lbls _ | .lbcc _ | .lbcs _
  | .lbne _ | .lbeq _ | .lbvc _ | .lbvs _ | .lbpl _ | .lbmi _ | .lbge _ | .lblt _ | .lbgt _ | .lble _ | .lbhs _
  | .lblo _ | .rev | .revw | .wav | .stop | .trap _ => true
  | _ => false

/-- The number a base register holds, PC as a base being the address after the instruction (30_encoding.md R100, R108). -/
def baseNat (r : BaseReg) (npc : Word) (s : State) : Int :=
  match r with
  | .x => s.x.toNat
  | .y => s.y.toNat
  | .sp => s.sp.toNat
  | .pc => npc.toNat

/-- The code of a base register in an indexed postbyte (30_encoding.md R100). -/
def baseCode : BaseReg → Nat
  | .x => 0
  | .y => 1
  | .sp => 2
  | .pc => 3

/-- The step of an auto form: codes 0 to 7 add 1 to 8, codes 8 to 15 subtract 8 to 1 (30_encoding.md R105). -/
def autoStep (n : BitVec 4) : Int := if n.toNat < 8 then n.toNat + 1 else n.toNat - 16

/-- The CCR after `write_ccr(v)`: every bit from `v`, X only kept or cleared (10_state.md R25, R27). -/
def Ccr.fromData (c : Ccr) (v : Byte) : Ccr :=
  { s := decide (v.toNat / 128 % 2 = 1), x := c.x && decide (v.toNat / 64 % 2 = 1), h := decide (v.toNat / 32 % 2 = 1),
    i := decide (v.toNat / 16 % 2 = 1), n := decide (v.toNat / 8 % 2 = 1), z := decide (v.toNat / 4 % 2 = 1),
    v := decide (v.toNat / 2 % 2 = 1), c := decide (v.toNat % 2 = 1) }

/-- The CCR as a number, bit 7 to bit 0 `S X H I N Z V C` (10_state.md R25). -/
def Ccr.nat (c : Ccr) : Nat :=
  128 * c.s.toNat + 64 * c.x.toNat + 32 * c.h.toNat + 16 * c.i.toNat + 8 * c.n.toNat + 4 * c.z.toNat + 2 * c.v.toNat +
    c.c.toNat

/-- The code of a register in the postbyte of TFR and EXG (30_encoding.md R113). -/
def regCode : XReg → Nat
  | .a => 0
  | .b => 1
  | .ccr => 2
  | .tmp => 3
  | .d => 4
  | .x => 5
  | .y => 6
  | .sp => 7

/-- The code of a counter in the postbyte of the loop primitives (30_encoding.md R114). -/
def loopCode : LoopReg → Nat
  | .a => 0
  | .b => 1
  | .d => 4
  | .x => 5
  | .y => 6
  | .sp => 7

/-- The number a register code stands for; code 3 is TMP3 as the first register and TMP2 as the second, a free value unless
the last instruction's rule states it (40_load_store_transfer_move.md R160, R164; log 8). -/
def regNat (r : XReg) (first : Bool) (s : State) : Nat :=
  match r with
  | .a => s.a.toNat
  | .b => s.b.toNat
  | .ccr => s.ccr.nat
  | .tmp => if first then s.tmp3Value.toNat else s.tmp2Value.toNat
  | .d => s.dNat
  | .x => s.x.toNat
  | .y => s.y.toNat
  | .sp => s.sp.toNat

/-- The register a code names receives a number, mod its width (40_load_store_transfer_move.md R160, R162). -/
def putReg (r : XReg) (first : Bool) (n : Nat) (s : State) : State :=
  match r with
  | .a => { s with a := BitVec.ofNat 8 n }
  | .b => { s with b := BitVec.ofNat 8 n }
  | .ccr => { s with ccr := s.ccr.fromData (BitVec.ofNat 8 n) }
  | .tmp => if first then { s with tmp3 := BitVec.ofNat 16 n, tmp3Known := true }
      else { s with tmp2 := BitVec.ofNat 16 n, tmp2Known := true }
  | .d => s.withD n
  | .x => { s with x := BitVec.ofNat 16 n }
  | .y => { s with y := BitVec.ofNat 16 n }
  | .sp => { s with sp := BitVec.ofNat 16 n }

/-- Both digits of a byte are decimal (41_arith.md R214). -/
def isBcd (v : Byte) : Bool := decide (v.toNat % 16 ≤ 9) && decide (v.toNat / 16 ≤ 9)

/-- The number two decimal digits write. -/
def bcdNat (v : Byte) : Nat := 10 * (v.toNat / 16) + v.toNat % 16

/-- The five movements of 42_logic_bit_shift.md R279. -/
inductive ShiftKind where
  | left | arithmeticRight | logicalRight | rotateLeft | rotateRight
  deriving DecidableEq, Repr

/-- The result of a shift or rotate by one, as arithmetic on the value; `cin` is C on entry (42_logic_bit_shift.md R279). -/
def ShiftKind.res {w : Nat} (k : ShiftKind) (cin : Bool) (v : BitVec w) : BitVec w :=
  match k with
  | .left => BitVec.ofNat w (2 * v.toNat)
  | .arithmeticRight => BitVec.ofInt w (v.toInt / 2)
  | .logicalRight => BitVec.ofNat w (v.toNat / 2)
  | .rotateLeft => BitVec.ofNat w (2 * v.toNat + cin.toNat)
  | .rotateRight => BitVec.ofNat w ((v.toNat + 2 ^ w * cin.toNat) / 2)

/-- The bit shifted out (42_logic_bit_shift.md R279). -/
def ShiftKind.out {w : Nat} (k : ShiftKind) (v : BitVec w) : Bool :=
  match k with
  | .left => decide (2 ^ w ≤ 2 * v.toNat)
  | .rotateLeft => decide (2 ^ w ≤ 2 * v.toNat)
  | .arithmeticRight => decide (v.toNat % 2 = 1)
  | .logicalRight => decide (v.toNat % 2 = 1)
  | .rotateRight => decide (v.toNat % 2 = 1)

/-- Instruction `i`, one byte `op`, shifts or rotates A. -/
def ShiftsA (k : ShiftKind) (s : State) (i : Instr) (op : Byte) : Prop :=
  CompletesInto i s { s with
    a := k.res s.ccr.c s.a, ccr := s.ccr.shifted (k.res s.ccr.c s.a) (k.out s.a), pc := s.npc 1 } ∧ encode i = [op]

/-- Instruction `i`, one byte `op`, shifts or rotates B. -/
def ShiftsB (k : ShiftKind) (s : State) (i : Instr) (op : Byte) : Prop :=
  CompletesInto i s { s with
    b := k.res s.ccr.c s.b, ccr := s.ccr.shifted (k.res s.ccr.c s.b) (k.out s.b), pc := s.npc 1 } ∧ encode i = [op]

/-- Instruction `i`, one byte `op`, shifts D. -/
def ShiftsD (k : ShiftKind) (s : State) (i : Instr) (op : Byte) : Prop :=
  let d := BitVec.ofNat 16 s.dNat
  CompletesInto i s { s.withD (k.res s.ccr.c d).toNat with
    ccr := s.ccr.shifted (k.res s.ccr.c d) (k.out d), pc := s.npc 1 } ∧ encode i = [op]

/-- Instruction `mk ad` shifts or rotates the byte at its effective address, reading it once (20_memory.md R65). -/
def ShiftsMemory (k : ShiftKind) (s : State) (mk : ExtIdx → Instr) (ad : ExtIdx) (ext idx : Byte) : Prop :=
  let p := s.npc (1 + ad.len)
  let ea := ad.ea p s
  let u := ad.side p s
  let r := k.res s.ccr.c (u.readByte ea)
  StoresInto (mk ad) s { u.touch ea with ccr := s.ccr.shifted r (k.out (u.readByte ea)), pc := p } ea [r] ∧
    EncodedExt mk ext idx

/-- Instruction `i`, whose bytes are `bs`, goes to the address after it plus `off`, mod 2^16, when `cond` holds, and to the
address after it when not; nothing else changes (30_encoding.md R97). -/
def Branches (i : Instr) (bs : List Byte) (s : State) (cond : Bool) (off : Int) : Prop :=
  CompletesInto i s { s with pc := BitVec.ofInt 16 (s.pc.toNat + bs.length + if cond then off else 0) } ∧ encode i = bs

/-- The number a loop counter holds, its width and the state with another number in it (45_branch.md R424). -/
def loopCounter (r : LoopReg) (s : State) : Nat × Nat × (Int → State) :=
  match r with
  | .a => (s.a.toNat, 8, fun n => { s with a := BitVec.ofInt 8 n })
  | .b => (s.b.toNat, 8, fun n => { s with b := BitVec.ofInt 8 n })
  | .d => (s.dNat, 16, fun n => s.withD (n % 65536).toNat)
  | .x => (s.x.toNat, 16, fun n => { s with x := BitVec.ofInt 16 n })
  | .y => (s.y.toNat, 16, fun n => { s with y := BitVec.ofInt 16 n })
  | .sp => (s.sp.toNat, 16, fun n => { s with sp := BitVec.ofInt 16 n })

/-- Instruction `i`, the opcode $04, a postbyte of kind `kind` and the low byte of the offset, adds `delta` to its counter mod
2^width and branches by `off` when the new count is zero (`onZero`) or is not (30_encoding.md R114, 45_branch.md R424). -/
def LoopsBy (kind : Nat) (delta : Int) (onZero : Bool) (i : Instr) (s : State) (r : LoopReg) (off : BitVec 9) : Prop :=
  let k := loopCounter r s
  let n := ((k.1 : Int) + delta) % 2 ^ k.2.1
  CompletesInto i s { k.2.2 n with
    pc := BitVec.ofInt 16 (s.pc.toNat + 3 + if decide (n = 0) = onZero then off.toInt else 0) } ∧
  encode i = [0x04, BitVec.ofNat 8 (32 * kind + (if off.toInt < 0 then 16 else 0) + loopCode r), BitVec.ofNat 8 off.toNat]

/-- The nine bytes of an interrupt frame from its lowest address upwards: CCR, B, A, X, Y, return address
(60_exceptions.md R508). -/
def State.frameBytes (s : State) (ret : Word) : List Byte :=
  [BitVec.ofNat 8 s.ccr.nat, s.b, s.a] ++ wordBE s.x ++ wordBE s.y ++ wordBE ret

/-- The state after an exception entry but for memory: SP nine lower, the PC at `target`, I set, X set if `setX`, `i_delay` 0,
RUNNING; A, B, X, Y and PPAGE kept, no rule element read ahead (60_exceptions.md R506, R509), TMP2 and TMP3 not counted as
stated, which is the model's choice (log 8). -/
def State.entered (s : State) (target : Word) (setX : Bool) : State :=
  { s with sp := s.sp - 9, pc := target, ccr := { s.ccr with i := true, x := s.ccr.x || setX }, iDelay := false,
           run := .running, tmp2Known := false, tmp3Known := false, ruleAhead := none }

/-- The state after an exception whose vector is at `vector`, but for memory: the vector is read, then the handler at the word
it holds is entered (60_exceptions.md R506). -/
def State.vectored (s : State) (vector : Word) (setX : Bool) : State :=
  (s.touchWord vector).entered (s.readWord vector) setX

/-- The state after the first `n` pairs of fuzzy output (at Y) and singleton (at X) are read, in this order
(44_fuzzy_minmax_table.md R351). Where no pair lies in a device register it is `s`. -/
def State.pairsRead (s : State) : Nat → State
  | 0 => s
  | k + 1 => ((s.pairsRead k).touch (s.y + BitVec.ofNat 16 k)).touch (s.x + BitVec.ofNat 16 k)

/-- The fuzzy output of pair `k`, the pairs counted from 0, as it is read after the pairs before it. -/
def State.pairOutput (s : State) (k : Nat) : Nat := ((s.pairsRead k).readByte (s.y + BitVec.ofNat 16 k)).toNat

/-- The singleton of pair `k`, as it is read after that pair's fuzzy output. -/
def State.pairSingleton (s : State) (k : Nat) : Nat :=
  (((s.pairsRead k).touch (s.y + BitVec.ofNat 16 k)).readByte (s.x + BitVec.ofNat 16 k)).toNat

/-- The sum over the first `n` pairs of fuzzy output times singleton (44_fuzzy_minmax_table.md R350). -/
def State.sumOfProducts (s : State) (n : Nat) : Nat :=
  ((List.range n).map fun k => s.pairOutput k * s.pairSingleton k).sum

/-- The sum of the first `n` fuzzy outputs (44_fuzzy_minmax_table.md R350). -/
def State.sumOfWeights (s : State) (n : Nat) : Nat := ((List.range n).map s.pairOutput).sum

/-- The state after the three words that wavr pulls are read, SP not yet moved (44_fuzzy_minmax_table.md R353). -/
def State.sumsRead (s : State) : State := ((s.touchWord s.sp).touchWord (s.sp + 2)).touchWord (s.sp + 4)

/-- The sum of products on the stack, TMP1 : TMP2 (44_fuzzy_minmax_table.md R353). -/
def State.stackedProducts (s : State) : Nat :=
  65536 * (s.readWord s.sp).toNat + ((s.touchWord s.sp).readWord (s.sp + 2)).toNat

/-- The sum of weights on the stack, TMP3 (44_fuzzy_minmax_table.md R353). -/
def State.stackedWeights (s : State) : Nat := (((s.touchWord s.sp).touchWord (s.sp + 2)).readWord (s.sp + 4)).toNat

/-- The registers that WAV stacks when an interrupt stops it in pass `k`, the passes counted from 0: B counted down, X and Y
past the pair read, H, N, Z, V, C undefined (44_fuzzy_minmax_table.md R352). -/
def State.wavContext (s : State) (k : Nat) : State :=
  { s.pairsRead (k + 1) with
    b := s.b - BitVec.ofNat 8 (k + 1), x := s.x + BitVec.ofNat 16 (k + 1), y := s.y + BitVec.ofNat 16 (k + 1)
    ccr := { s.ccr with h := s.freeBit 0, n := s.freeBit 1, z := s.freeBit 2, v := s.freeBit 3, c := s.freeBit 4 } }

/-- WAV, entered with the sums `sop` and `sow` so far and stopped in pass `k`, has stacked the sums and then the frame: fifteen
bytes below `sp`, from the lowest address upwards (44_fuzzy_minmax_table.md R352, 60_exceptions.md R508). -/
def State.wavFrame (s : State) (k sop sow : Nat) (ret : Word) : List Byte :=
  (s.wavContext k).frameBytes ret ++ wordBE (BitVec.ofNat 16 (sop / 65536)) ++ wordBE (BitVec.ofNat 16 sop) ++
    wordBE (BitVec.ofNat 16 sow)

/-- The state after that but for memory: the vector of `r` read, the handler at `target` entered, SP fifteen lower than `sp`,
the sums in TMP1 to TMP3, the boundary samples of the passes used, `rest` being left (44_fuzzy_minmax_table.md R352,
60_exceptions.md R506). -/
def State.wavStopped (s : State) (k sop sow : Nat) (sp target : Word) (r : Request) (rest : List Inputs) : State :=
  { ((s.wavContext k).touchWord r.vector).entered target r.isXirq with
    sp := sp - 15, inputs := rest, freeIdx := s.freeIdx + 5
    tmp1 := BitVec.ofNat 16 (sop / 65536), tmp2 := BitVec.ofNat 16 sop, tmp3 := BitVec.ofNat 16 sow }

/-- WAV or wavr, which reads its pairs from the state `s` onwards, is stopped by `r` in pass `k`, the stack at `sp`: the
fifteen bytes are stored, and the handler is at the word the vector holds, read before the frame is stacked; that word is as
it was if the sums were not stacked over it (44_fuzzy_minmax_table.md R352; 92_eei_decisions.md D16). `s₀` is the state in
which the instruction starts. -/
def WavStops (i : Instr) (s₀ s : State) (r : Request) (k sop sow : Nat) (sp ret : Word) (rest : List Inputs) : Prop :=
  ∃ target, StoresInto i s₀ (s.wavStopped k sop sow sp target r rest) (sp - 15) (s.wavFrame k sop sow ret) ∧
    (s.Inv →
      (∀ j, j < 6 → s.Stores (sp - 6 + BitVec.ofNat 16 j) ∧
        s.physKey r.vector ≠ s.physKey (sp - 6 + BitVec.ofNat 16 j) ∧
        s.physKey (r.vector + 1) ≠ s.physKey (sp - 6 + BitVec.ofNat 16 j)) →
      target = (s.pairsRead (k + 1)).readWord r.vector)

/-- What a reset leaves whatever the machine was doing: S = X = I = 1, `i_delay` 0, RUNNING, the PC from the vector as memory
stands (70_reset_and_hazards.md R551). `u` is the machine that the reset met. -/
def AfterReset (u t : State) (v : Word) : Prop :=
  t.ccr.s = true ∧ t.ccr.x = true ∧ t.ccr.i = true ∧ t.iDelay = false ∧ t.run = .running ∧ t.pc = u.readWord v ∧
    t.mem = u.mem

/-- WAV or wavr is abandoned in the state `u` for a reset with vector `v`: nothing is stacked (44_fuzzy_minmax_table.md
R341(e), 70_reset_and_hazards.md R551). -/
def WavReset (i : Instr) (s u : State) (v : Word) (rest : List Inputs) : Prop :=
  ∃ t, exec i s = .next t ∧ AfterReset u t v ∧ t.inputs = rest

end Sys2Proof.Machine
end

