-- ==== Sys2Proof/Certificates/Slice0/Obligations.lean ====
section
/-! DEFINITION. The statements. Each docstring names the rules of spec/ it formalises; `p` is the address after the
instruction, `u` the state after its operand's address is formed, or, for an operand that is a value, after it is read. A read
changes the devices at most (`State.touch`, 20_memory.md R65), and what is read later is read in the state it leaves; what a
device makes of a read is open, and where nothing read is a device register a read changes nothing (log 30). -/

open Sys2Proof Sys2Proof.Machine

/-! ### Encoding -/

/-- Decoding the bytes of a well-formed instruction gives the instruction back, as the core instruction where it is a second
name (30_encoding.md R91 to R126). -/
def Obligations.DecodeOfEncode : Prop :=
  ∀ (i : Instr) (rest : List Byte), i.WellFormed → decode (encode i ++ rest) = .ok (canon i, rest)

/-- What the decoder answers is well-formed, is no second name, and took as many bytes as the encoder writes for it, at least
one and at most six, leaving the bytes that follow as they were (30_encoding.md R92, R126). -/
def Obligations.DecodedIsWellFormed : Prop :=
  ∀ (bs rest : List Byte) (i : Instr), decode bs = .ok (i, rest) →
    i.WellFormed ∧ canon i = i ∧ rest = bs.drop (encode i).length ∧
      bs.length = (encode i).length + rest.length ∧ 1 ≤ (encode i).length ∧ (encode i).length ≤ 6

/-- Words written out from the opcode maps and the postbyte tables decode to the instructions they stand for
(30_encoding.md R100, R105, R113, R114, R116, R120, R121). That the first address of MOVB from extended to extended is the
source is the model's choice: R116 and G1 take it from general knowledge (log 26, PRESUMED). -/
def Obligations.WrittenWordsDecode : Prop :=
  decode [0x86, 0x80] = .ok (.ldaa (.imm 0x80), []) ∧
  decode [0xEC, 0xB1] = .ok (.ldd (.idx (.auto .sp true 1)), []) ∧
  decode [0x04, 0x35, 0xFD] = .ok (.dbne .x 0x1FD, []) ∧
  decode [0xB7, 0xC5] = .ok (.exg .d .x, []) ∧
  decode [0x18, 0x0C, 0x10, 0x00, 0x20, 0x00] = .ok (.movb (.ext 0x1000) (.ext 0x2000), []) ∧
  decode [0x18, 0x26, 0xFF, 0xFC] = .ok (.lbne 0xFFFC, []) ∧
  decode [0x15, 0xFA, 0x12, 0x34] = .ok (.jsr (.idx (.off16 .pc 0x1234)), [])

/-- A second name does in every state what its core instruction does (30_encoding.md R126). -/
def Obligations.SecondNameDoesWhatItsCoreDoes : Prop :=
  ∀ (i : Instr) (s : State), exec i s = exec (canon i) s

/-- Every instruction but the two rows that are no instruction of their own completes, in every state and with every operand,
and leaves the device parameters alone (60_exceptions.md R502). Terms outside WellFormed, which no bytes decode to, are among
them: that they complete is the model's choice (log 29). -/
def Obligations.EveryInstructionCompletes : Prop :=
  ∀ (i : Instr) (s : State), (∀ lb rr, i ≠ .unassignedLoopPostbyte lb rr) → i ≠ .page2Prebyte →
    ∃ t, exec i s = .next t ∧ t.dev = s.dev

/-- The loop postbytes with bits 7:6 = 11 decode to their row and are refused when executed; those with register code 010 or
011 are refused by the decoder (30_encoding.md R114, 93_implementation_defined.md U3; log 24). So are the indexed forms an
instruction does not accept: the indirect ones with LEAX, LEAY, LEAS, BSET, BCLR, BRSET, BRCLR, and all but the short ones in
MOVB, MOVW, TBL, ETBL (30_encoding.md R110, U5; log 25). A step that meets bytes the decoder refuses is refused. The prebyte
does what the page-2 instruction does whose opcode and operands follow it in memory, and completes (30_encoding.md R91; log
28). -/
def Obligations.RowsThatAreNoInstruction : Prop :=
  (∀ (lb rr : Byte) (rest : List Byte) (s : State), 0xC0 ≤ lb.toNat →
    decode (0x04 :: lb :: rr :: rest) = .ok (.unassignedLoopPostbyte lb rr, rest) ∧
      exec (.unassignedLoopPostbyte lb rr) s = .refused .loopPostbyteUnassigned) ∧
  (∀ (lb rr : Byte) (rest : List Byte), lb.toNat < 0xC0 → lb.toNat % 8 = 2 ∨ lb.toNat % 8 = 3 →
    decode (0x04 :: lb :: rr :: rest) = .error .loopRegisterUnassigned) ∧
  (∀ (i : Idx) (rest : List Byte),
    let indirect := (∃ r n, i = .ind16 r n) ∨ ∃ r, i = .indD r
    let long := indirect ∨ (∃ r n, i = .off9 r n) ∨ ∃ r n, i = .off16 r n
    (indirect → ∀ op ∈ [0x19, 0x1A, 0x1B, 0x0C, 0x0D, 0x0E, 0x0F],
      decode (op :: (i.bytes ++ rest)) = .error .indexedFormNotAccepted) ∧
    (long → ∀ op ∈ [0x00, 0x01, 0x02, 0x05, 0x08, 0x09, 0x0A, 0x0D, 0x3D, 0x3F],
      decode (0x18 :: op :: (i.bytes ++ rest)) = .error .indexedFormNotAccepted) ∧
    (long → ∀ j : Idx, (∀ r n, j ≠ .ind16 r n) → (∀ r, j ≠ .indD r) → (∀ r n, j ≠ .off9 r n) → (∀ r n, j ≠ .off16 r n) →
      ∀ op ∈ [0x02, 0x0A], decode (0x18 :: op :: (j.bytes ++ (i.bytes ++ rest))) = .error .indexedFormNotAccepted)) ∧
  (∀ (s : State) (e : DecodeError), s.Quiet → decode (fetchBytes s) = .error e → step s = .refused (.undecodable e)) ∧
  (∀ (s : State) (i : Instr) (rest : List Byte), decode (0x18 :: (fetchBytes s).tail) = .ok (i, rest) →
    exec .page2Prebyte s = exec i s ∧ ∃ t, exec .page2Prebyte s = .next t)

/-! ### Steps and reset -/

/-- When the boundary is quiet and the bytes at the PC decode to an instruction, a step is that instruction executed on the
state whose boundary sample has been taken; then `i_delay` is 0 unless the instruction's own rule set it or it is a rule list
half way, TMP2 and TMP3 count as stated only after the instructions whose rules state them, and no rule element stays read
ahead outside a rule list (60_exceptions.md R503, 10_state.md R34, R36). Then the device registers, if there are any, see the
step pass; nothing but their own state changes by it (log 30). -/
def Obligations.StepRunsTheDecodedInstruction : Prop :=
  (∀ (s : State) (i : Instr) (rest : List Byte), s.Quiet → decode (fetchBytes s) = .ok (i, rest) →
    i.WellFormed ∧
    (∀ t, exec i s.popInput = .next t →
      step s = .next (s.elapse { t with
        iDelay := (writesDelay i || midRuleList i s.popInput t) && t.iDelay
        tmp2Known := t.tmp2Known && definesTmp2 i
        tmp3Known := t.tmp3Known && definesTmp3 i
        ruleAhead := if midRuleList i s.popInput t = true then t.ruleAhead else none })) ∧
    (∀ r, exec i s.popInput = .refused r → step s = .refused r)) ∧
  (∀ s t : State, s.elapse t = { t with devices := (s.elapse t).devices } ∧
    ((∀ r ∈ s.dev.regions, r.kind ≠ .register) → s.elapse t = t))

/-- Every instruction but those that transfer control, stop or may be interrupted half way ends with the PC after its last
byte, by the length of its encoding (10_state.md R24, 30_encoding.md R92). -/
def Obligations.PcAdvancesByTheEncodedLength : Prop :=
  ∀ (i : Instr) (s : State), mayLeaveLine i = false →
    ∃ t, exec i s = .next t ∧ t.pc = s.pc + BitVec.ofNat 16 (encode i).length ∧ t.run = s.run

/-- The reset state: S = X = I = 1, `i_delay` 0, RUNNING, the PC the word at $FFFE (10_state.md R40). -/
def Obligations.ResetStateAsStated : Prop :=
  State.reset.ccr.s = true ∧ State.reset.ccr.x = true ∧ State.reset.ccr.i = true ∧ State.reset.iDelay = false ∧
    State.reset.run = .running ∧ State.reset.pc = State.reset.readWord 0xFFFE

/-- A step at whose boundary a reset is requested, in any run state, takes the reset of highest priority: S = X = I = 1,
`i_delay` 0, RUNNING, the PC from its vector, nothing stacked, memory as it was (70_reset_and_hazards.md R551,
60_exceptions.md R510). A reset that comes after `n` byte writes of the instruction that starts at a boundary, or of the
interrupt entry taken there, abandons it: memory is as that many writes leave it, and the same reset sequence follows (R551).
Of a word write the limit lets nothing, the high byte or both bytes happen; that the grain is one byte is the model's choice
(log 10). That a reset leaves memory unchanged is the model's choice (log 9); the other registers are free values. -/
def Obligations.ResetIsTakenFirst : Prop :=
  (∀ (s : State), (s.input.resetPin || s.input.clockMonitor || s.input.cop) = true →
    ∃ t, step s = .next t ∧ t.dev = s.dev ∧ t.inputs = s.inputs.tail ∧
      AfterReset s t (if s.input.resetPin then 0xFFFE else if s.input.clockMonitor then 0xFFFC else 0xFFFA)) ∧
  (∀ (s : State) (src : ResetSource) (n : Nat), s.run = .running → s.input.resetVector = none →
    s.input.lateReset = some (src, n) → (s.input.tag && s.dev.bdmEnabled) = false →
    let v : Word := match src with
      | .pin => 0xFFFE
      | .clockMonitor => 0xFFFC
      | .cop => 0xFFFA
    let cut := { s.popInput with writeLimit := some n }
    (∀ i rest u, s.interruptPending s.input = none → decode (fetchBytes s) = .ok (i, rest) → exec i cut = .next u →
      ∃ t, step s = .next t ∧ AfterReset u t v ∧ t.writeLimit = none) ∧
    (∀ r, s.interruptPending s.input = some r →
      ∃ t, step s = .next t ∧ AfterReset (cut.exceptionEntry r.vector s.pc r.isXirq) t v ∧ t.writeLimit = none)) ∧
  (∀ (s : State) (a v : Word) (n : Nat), s.writeLimit = none →
    { s with writeLimit := some 0 }.writeWord a v = { s with writeLimit := some 0 } ∧
    { s with writeLimit := some 1 }.writeWord a v =
      { s.writeByte a (BitVec.ofNat 8 (v.toNat / 256)) with writeLimit := some 0 } ∧
    { s with writeLimit := some (n + 2) }.writeWord a v = { s.writeWord a v with writeLimit := some n })

/-! ### Whole-machine invariants -/

/-- Every step keeps the memory in its canonical form and leaves no limit on writes behind (the model's own invariant;
20_memory.md R62, log 10). No step changes the
device parameters (00_scope.md R7). -/
def Obligations.StepKeepsMemoryCanonical : Prop :=
  (∀ s t : State, s.Inv → step s = .next t → t.Inv) ∧
  (∀ s t : State, step s = .next t → t.dev = s.dev)

/-- The reset state's memory is in canonical form, and its environment asks for nothing. -/
def Obligations.ResetIsCanonical : Prop := State.reset.Inv ∧ State.reset.Quiet

/-- X goes from 0 to 1 only by a reset, by recognition of an XIRQ or by a BDM host that writes the CCR: while the environment
does none of these, no step of any kind sets it (10_state.md R27, 60_exceptions.md R509, R535). -/
def Obligations.OnlyResetOrXirqSetsX : Prop :=
  ∀ s t : State, (∀ q ∈ s.inputs, q.Mild) → s.ccr.x = false → step s = .next t → t.ccr.x = false

/-! ### Memory -/

/-- A byte write and what every address that is no device register reads afterwards: in plain storage every name of the byte
written reads as that byte, a ROM or unimplemented byte keeps its value, every other address is untouched; where MEM_MAP has
no alias an address is the only name of its byte (20_memory.md R62, R71, R72; the aliases are 92_eei_decisions.md D7). A store
to the address at which PPAGE is memory-mapped changes PPAGE and no byte of storage, and the address reads back what was
stored (10_state.md R35, 20_memory.md R72; that its unimplemented bits read back too is the model's choice, log 40). A device
register takes a write, and answers a read, by the device's own free functions (20_memory.md R70; log 30), and a read of it
changes what the next access meets; a read of anything else changes nothing. At a device register the instructions that modify
memory in place read their operand once and then write it once, CLR and the stores write it without reading it, and TST, the
compares, BITA, BITB, BRSET and BRCLR read it once and do not write it (20_memory.md R65; the devices' functions are log
30). -/
def Obligations.ByteWriteThenRead : Prop :=
  (∀ (s : State) (a b : Word) (v : Byte), s.Inv → s.NotPpage a →
    (s.NotRegister b → (s.writeByte a v).readByte b =
      if s.dev.ppageAddr ≠ some b ∧ s.physKey b = s.physKey a ∧ s.dev.kindAt (s.physKey a) = none then v else s.readByte b) ∧
    (s.dev.aliases = [] → (s.physKey b = s.physKey a ↔ b = a)) ∧
    (s.writeByte a v).ppage = s.ppage ∧ (s.NotRegister a → (s.writeByte a v).devices = s.devices)) ∧
  (∀ (s : State) (a : Word) (v : Byte), s.Inv → s.dev.ppageAddr = some a →
    s.writeByte a v = { s with ppage := v } ∧ (s.writeByte a v).readByte a = v ∧
      exec (.staa (.ext a)) s = .next { s with ppage := s.a, ccr := s.ccr.moved s.a, pc := s.npc 3 }) ∧
  (∀ (s : State) (a : Word) (v : Byte), s.Inv → s.NotPpage a → s.dev.kindAt (s.physKey a) = some .register →
    s.writeByte a v = { s with devices := Config.deviceWrite s.devices (s.physKey a) v } ∧
      s.readByte a = Config.deviceRead s.devices (s.physKey a) ∧
      s.touch a = { s with devices := Config.deviceAfterRead s.devices (s.physKey a) }) ∧
  (∀ (s : State) (a : Word), ¬s.NotPpage a ∨ s.NotRegister a → s.touch a = s) ∧
  (∀ (s : State) (a : Word) (mm rr : Byte), s.Inv → s.RegistersFrom a 1 → let x := Idx.off16 .x (a - s.x)
    (∀ i ∈ [Instr.neg (.ext a), .com (.ext a), .inc (.ext a), .dec (.ext a), .asl (.ext a), .lsl (.ext a), .asr (.ext a),
        .lsr (.ext a), .rol (.ext a), .ror (.ext a), .bset (.ext a) mm, .bclr (.ext a) mm, .minm x, .maxm x],
      Accesses i s [a] [a]) ∧
    (∀ i ∈ [Instr.clr (.ext a), .staa (.ext a), .stab (.ext a)], Accesses i s [] [a]) ∧
    (∀ i ∈ [Instr.tst (.ext a), .cmpa (.ext a), .cmpb (.ext a), .bita (.ext a), .bitb (.ext a), .brset (.ext a) mm rr,
        .brclr (.ext a) mm rr], Accesses i s [a] [])) ∧
  (∀ (s : State) (a : Word), s.Inv → s.RegistersFrom a 2 → let x := Idx.off16 .x (a - s.x); let w := [a, a + 1]
    (∀ i ∈ [Instr.eminm x, .emaxm x], Accesses i s w w) ∧
    (∀ i ∈ [Instr.std (.ext a), .stx (.ext a), .sty (.ext a), .sts (.ext a)], Accesses i s [] w) ∧
    (∀ i ∈ [Instr.cpd (.ext a), .cpx (.ext a), .cpy (.ext a), .cps (.ext a)], Accesses i s w [])) ∧
  (∀ (s : State) (a : Word), s.Inv → s.RegistersFrom a 4 → (∀ b ∈ [s.x, s.x + 1, s.y, s.y + 1], s.NotRegister b) →
    let l := [a, a + 1, a + 2, a + 3]
    Accesses (.emacs a) s l l)

/-- Words are big-endian, their bytes are read and written in ascending address order, so that the second byte is read in the
state that the read of the first leaves (log 30), and every byte address wraps mod 2^16 (20_memory.md R61, R62, R64). -/
def Obligations.WordsAreBigEndianAndWrap : Prop :=
  ∀ (s : State) (a v : Word),
    (s.readWord a).toNat = 256 * (s.readByte a).toNat + ((s.touch a).readByte (a + 1)).toNat ∧
    (s.readWord 0xFFFF).toNat = 256 * (s.readByte 0xFFFF).toNat + ((s.touch 0xFFFF).readByte 0).toNat ∧
    s.touchWord a = (s.touch a).touch (a + 1) ∧
    s.writeWord a v = (s.writeByte a (BitVec.ofNat 8 (v.toNat / 256))).writeByte (a + 1) (BitVec.ofNat 8 v.toNat) ∧
    BytesStored s (s.writeWord a v) a (wordBE v)

/-- In expanded memory a page is a separate 16 Kbytes: a byte written through the window with one page selected is seen again
with the same implemented page bits and, where MEM_MAP has no alias, is not seen with others, and addresses outside the window
do not depend on PPAGE (20_memory.md R72; the aliases are 92_eei_decisions.md D7, log 31). -/
def Obligations.ProgramPagesAreSeparate : Prop :=
  ∀ (s : State) (a b : Word) (v q : Byte), s.Inv → s.dev.hasExpandedMemory = true → s.Stores a → s.NotPpage b →
    0x8000 ≤ a.toNat → a.toNat < 0xC000 →
    (q &&& s.dev.ppageBits = s.ppage &&& s.dev.ppageBits →
      ({ s.writeByte a v with ppage := q }).readByte a = v) ∧
    (q &&& s.dev.ppageBits ≠ s.ppage &&& s.dev.ppageBits → s.dev.aliases = [] →
      ({ s.writeByte a v with ppage := q }).readByte b = ({ s with ppage := q }).readByte b) ∧
    (b.toNat < 0x8000 ∨ 0xC000 ≤ b.toNat → ({ s with ppage := q }).readByte b = s.readByte b)

/-! ### Operands -/

/-- Immediate, direct and extended operands: the value in the instruction, the byte or word in page 0, the byte or word at the
address; none of them changes a register, and what a device makes of the read is all they change (30_encoding.md R94, R95,
R96). An indexed operand of any instruction is the byte or word at the indexed effective address, read after that address is
formed, or that address itself, and changes what the indexed form changes (30_encoding.md R100, R111). The effective address
of every indexed form is the exact sum of base and offset mod 2^16: a signed 5-bit or 9-bit offset, a 16-bit offset, A or B
unsigned or D; the indirect forms read the address from there (30_encoding.md R101, R102, R103, R104, R106, R107, R108). Each
form's postbyte and extension bytes are those of R100. -/
def Obligations.OperandAddresses : Prop :=
  (∀ (s : State) (npc : Word) (ii dd : Byte) (v a : Word), let page0 := BitVec.ofNat 16 dd.toNat
    (Src8.imm ii).value npc s = ii ∧ (Src16.imm v).value npc s = v ∧
    (MovSrc8.imm ii).value npc s = ii ∧ (MovSrc16.imm v).value npc s = v ∧
    (Src8.dir dd).value npc s = s.readByte page0 ∧ (Src16.dir dd).value npc s = s.readWord page0 ∧
    (MemOp.dir dd).ea npc s = page0 ∧
    (Src8.ext a).value npc s = s.readByte a ∧ (Src16.ext a).value npc s = s.readWord a ∧
    (MovSrc8.ext a).value npc s = s.readByte a ∧ (MovSrc16.ext a).value npc s = s.readWord a ∧
    (MemOp.ext a).ea npc s = a ∧ (ExtIdx.ext a).ea npc s = a ∧
    (Src8.imm ii).side npc s = s ∧ (Src8.dir dd).side npc s = s.touch page0 ∧ (Src8.ext a).side npc s = s.touch a ∧
    (Src16.imm v).side npc s = s ∧ (Src16.dir dd).side npc s = s.touchWord page0 ∧
    (Src16.ext a).side npc s = s.touchWord a ∧
    (MovSrc8.imm ii).side npc s = s ∧ (MovSrc8.ext a).side npc s = s.touch a ∧ (MovSrc16.imm v).side npc s = s ∧
    (MovSrc16.ext a).side npc s = s.touchWord a ∧
    (MemOp.dir dd).side npc s = s ∧ (MemOp.ext a).side npc s = s ∧ (ExtIdx.ext a).side npc s = s) ∧
  (∀ (s : State) (npc : Word) (i : Idx), let ea := i.ea npc s; let u := i.side npc s
    (Src8.idx i).value npc s = u.readByte ea ∧ (Src16.idx i).value npc s = u.readWord ea ∧
    (MovSrc8.idx i).value npc s = u.readByte ea ∧ (MovSrc16.idx i).value npc s = u.readWord ea ∧
    (MemOp.idx i).ea npc s = ea ∧ (ExtIdx.idx i).ea npc s = ea ∧
    (Src8.idx i).side npc s = u.touch ea ∧ (Src16.idx i).side npc s = u.touchWord ea ∧
    (MovSrc8.idx i).side npc s = u.touch ea ∧ (MovSrc16.idx i).side npc s = u.touchWord ea ∧
    (MemOp.idx i).side npc s = u ∧ (ExtIdx.idx i).side npc s = u) ∧
  (∀ (s : State) (npc : Word) (r : BaseReg),
    (∀ n, (Idx.off5 r n).ea npc s = BitVec.ofInt 16 (baseNat r npc s + n.toInt)) ∧
    (∀ n, (Idx.off9 r n).ea npc s = BitVec.ofInt 16 (baseNat r npc s + n.toInt)) ∧
    (∀ n, (Idx.off16 r n).ea npc s = BitVec.ofInt 16 (baseNat r npc s + n.toInt)) ∧
    (Idx.acc r .a).ea npc s = BitVec.ofInt 16 (baseNat r npc s + s.a.toNat) ∧
    (Idx.acc r .b).ea npc s = BitVec.ofInt 16 (baseNat r npc s + s.b.toNat) ∧
    (Idx.acc r .d).ea npc s = BitVec.ofInt 16 (baseNat r npc s + s.dNat) ∧
    (∀ n, (Idx.ind16 r n).ea npc s = s.readWord (BitVec.ofInt 16 (baseNat r npc s + n.toInt))) ∧
    (Idx.indD r).ea npc s = s.readWord (BitVec.ofInt 16 (baseNat r npc s + s.dNat))) ∧
  (∀ (r : BaseReg), let c := baseCode r
    (∀ n, (Idx.off5 r n).bytes = [BitVec.ofNat 8 (64 * c + n.toNat)]) ∧
    (∀ n, (Idx.off9 r n).bytes = [BitVec.ofNat 8 (0xE0 + 8 * c + if n.toInt < 0 then 1 else 0), BitVec.ofNat 8 n.toNat]) ∧
    (∀ n, (Idx.off16 r n).bytes = BitVec.ofNat 8 (0xE2 + 8 * c) :: wordBE n) ∧
    (∀ n, (Idx.ind16 r n).bytes = BitVec.ofNat 8 (0xE3 + 8 * c) :: wordBE n) ∧
    (Idx.acc r .a).bytes = [BitVec.ofNat 8 (0xE4 + 8 * c)] ∧ (Idx.acc r .b).bytes = [BitVec.ofNat 8 (0xE5 + 8 * c)] ∧
    (Idx.acc r .d).bytes = [BitVec.ofNat 8 (0xE6 + 8 * c)] ∧ (Idx.indD r).bytes = [BitVec.ofNat 8 (0xE7 + 8 * c)]) ∧
  (∀ (post : Bool) (n : BitVec 4), let k := 32 + 16 * post.toNat + n.toNat
    (Idx.auto .x post n).bytes = [BitVec.ofNat 8 k] ∧ (Idx.auto .y post n).bytes = [BitVec.ofNat 8 (64 + k)] ∧
    (Idx.auto .sp post n).bytes = [BitVec.ofNat 8 (128 + k)])

/-- An auto form uses its register before (post) or after (pre) the adjustment, and adjusts that register and nothing else
(30_encoding.md R105); an indirect form reads its pointer, which changes the devices at most (R104, R107; 20_memory.md R65,
log 30); no other indexed form changes anything. -/
def Obligations.AutoFormsAdjustTheirRegister : Prop :=
  ∀ (s : State) (npc : Word) (n : BitVec 4),
    ((Idx.auto .x true n).ea npc s = s.x ∧ (Idx.auto .y true n).ea npc s = s.y ∧ (Idx.auto .sp true n).ea npc s = s.sp) ∧
    (∀ r : AutoReg, (Idx.auto r false n).ea npc s = r.value ((Idx.auto r false n).side npc s)) ∧
    (∀ post, (Idx.auto .x post n).side npc s = { s with x := BitVec.ofInt 16 (s.x.toNat + autoStep n) }) ∧
    (∀ post, (Idx.auto .y post n).side npc s = { s with y := BitVec.ofInt 16 (s.y.toNat + autoStep n) }) ∧
    (∀ post, (Idx.auto .sp post n).side npc s = { s with sp := BitVec.ofInt 16 (s.sp.toNat + autoStep n) }) ∧
    (∀ r k, (Idx.ind16 r k).side npc s = s.touchWord (BitVec.ofInt 16 (baseNat r npc s + k.toInt))) ∧
    (∀ r, (Idx.indD r).side npc s = s.touchWord (BitVec.ofInt 16 (baseNat r npc s + s.dNat))) ∧
    (∀ i : Idx, (∀ r post k, i ≠ .auto r post k) → (∀ r k, i ≠ .ind16 r k) → (∀ r, i ≠ .indD r) → i.side npc s = s)

/-! ### Loads, stores, transfers, moves -/

/-- LDAA, LDAB, LDD, LDX, LDY, LDS: the register receives the operand, N and Z describe it, V is 0, nothing else changes but
the register an auto form adjusts; for LDX, LDY and LDS the loaded value wins (40_load_store_transfer_move.md R142 to R147).
LEAX, LEAY, LEAS put the effective address itself in the register, after any adjustment, and change no flag
(40_load_store_transfer_move.md R148, R149, R150). -/
def Obligations.LoadsSetRegisterAndFlags : Prop :=
  (∀ s : State,
    (∀ src : Src8, let p := s.npc (1 + src.len); let v := src.value p s; let u := src.side p s
      CompletesInto (.ldaa src) s { u with a := v, ccr := s.ccr.moved v, pc := p } ∧
      CompletesInto (.ldab src) s { u with b := v, ccr := s.ccr.moved v, pc := p }) ∧
    (∀ src : Src16, let p := s.npc (1 + src.len); let v := src.value p s; let u := src.side p s
      CompletesInto (.ldd src) s { u.withD v.toNat with ccr := s.ccr.moved v, pc := p } ∧
      CompletesInto (.ldx src) s { u with x := v, ccr := s.ccr.moved v, pc := p } ∧
      CompletesInto (.ldy src) s { u with y := v, ccr := s.ccr.moved v, pc := p } ∧
      CompletesInto (.lds src) s { u with sp := v, ccr := s.ccr.moved v, pc := p }) ∧
    EncodedSrc8 .ldaa 0x86 0x96 0xB6 0xA6 ∧ EncodedSrc8 .ldab 0xC6 0xD6 0xF6 0xE6 ∧
    EncodedSrc16 .ldd 0xCC 0xDC 0xFC 0xEC ∧ EncodedSrc16 .ldx 0xCE 0xDE 0xFE 0xEE ∧
    EncodedSrc16 .ldy 0xCD 0xDD 0xFD 0xED ∧ EncodedSrc16 .lds 0xCF 0xDF 0xFF 0xEF) ∧
  (∀ (s : State) (i : Idx), let p := s.npc (1 + i.len); let u := i.side p s
    CompletesInto (.leax i) s { u with x := i.ea p s, pc := p } ∧ encode (.leax i) = 0x1A :: i.bytes ∧
    CompletesInto (.leay i) s { u with y := i.ea p s, pc := p } ∧ encode (.leay i) = 0x19 :: i.bytes ∧
    CompletesInto (.leas i) s { u with sp := i.ea p s, pc := p } ∧ encode (.leas i) = 0x1B :: i.bytes)

/-- STAA, STAB, STD, STX, STY, STS: the register's bytes are stored from the effective address upwards, N and Z describe the
value, V is 0; what is stored is the register after the operand's adjustment (40_load_store_transfer_move.md R151 to R156;
that order for an index register that is also stored is log 14). -/
def Obligations.StoresWriteRegisterAndFlags : Prop :=
  ∀ (s : State) (ad : MemOp), let p := s.npc (1 + ad.len); let u := ad.side p s; let ea := ad.ea p s
    StoresInto (.staa ad) s { u with ccr := s.ccr.moved s.a, pc := p } ea [s.a] ∧
    StoresInto (.stab ad) s { u with ccr := s.ccr.moved s.b, pc := p } ea [s.b] ∧
    StoresInto (.std ad) s { u with ccr := s.ccr.moved (BitVec.ofNat 16 s.dNat), pc := p } ea [s.a, s.b] ∧
    StoresInto (.stx ad) s { u with ccr := s.ccr.moved u.x, pc := p } ea (wordBE u.x) ∧
    StoresInto (.sty ad) s { u with ccr := s.ccr.moved u.y, pc := p } ea (wordBE u.y) ∧
    StoresInto (.sts ad) s { u with ccr := s.ccr.moved u.sp, pc := p } ea (wordBE u.sp) ∧
    EncodedMem .staa 0x5A 0x7A 0x6A [] ∧ EncodedMem .stab 0x5B 0x7B 0x6B [] ∧ EncodedMem .std 0x5C 0x7C 0x6C [] ∧
    EncodedMem .stx 0x5E 0x7E 0x6E [] ∧ EncodedMem .sty 0x5D 0x7D 0x6D [] ∧ EncodedMem .sts 0x5F 0x7F 0x6F []

/-- MOVB and MOVW: the source is read before the destination's address is formed, the value is stored there, no flag changes
(40_load_store_transfer_move.md R173, R174; the order of the two adjustments is 92_eei_decisions.md D10, log 14). Their
opcodes and the order of their operand bytes are those of 30_encoding.md R116, R121; that the source comes first from extended
to extended is log 26. -/
def Obligations.MovesCopyMemory : Prop :=
  (∀ s : State,
    (∀ (src : MovSrc8) (dst : ExtIdx), let p := s.npc (2 + src.len + dst.len); let u := src.side p s
      StoresInto (.movb src dst) s { dst.side p u with pc := p } (dst.ea p u) [src.value p s]) ∧
    (∀ (src : MovSrc16) (dst : ExtIdx), let p := s.npc (2 + src.len + dst.len); let u := src.side p s
      StoresInto (.movw src dst) s { dst.side p u with pc := p } (dst.ea p u) (wordBE (src.value p s)))) ∧
  (∀ (ii : Byte) (v a h : Word) (i j : Idx),
    encode (.movw (.imm v) (.idx j)) = [0x18, 0x00] ++ j.bytes ++ wordBE v ∧
    encode (.movw (.ext a) (.idx j)) = [0x18, 0x01] ++ j.bytes ++ wordBE a ∧
    encode (.movw (.idx i) (.idx j)) = [0x18, 0x02] ++ i.bytes ++ j.bytes ∧
    encode (.movw (.imm v) (.ext h)) = [0x18, 0x03] ++ wordBE v ++ wordBE h ∧
    encode (.movw (.ext a) (.ext h)) = [0x18, 0x04] ++ wordBE a ++ wordBE h ∧
    encode (.movw (.idx i) (.ext h)) = [0x18, 0x05] ++ i.bytes ++ wordBE h ∧
    encode (.movb (.imm ii) (.idx j)) = [0x18, 0x08] ++ j.bytes ++ [ii] ∧
    encode (.movb (.ext a) (.idx j)) = [0x18, 0x09] ++ j.bytes ++ wordBE a ∧
    encode (.movb (.idx i) (.idx j)) = [0x18, 0x0A] ++ i.bytes ++ j.bytes ∧
    encode (.movb (.imm ii) (.ext h)) = [0x18, 0x0B, ii] ++ wordBE h ∧
    encode (.movb (.ext a) (.ext h)) = [0x18, 0x0C] ++ wordBE a ++ wordBE h ∧
    encode (.movb (.idx i) (.ext h)) = [0x18, 0x0D] ++ i.bytes ++ wordBE h)

/-- TFR, every cell of its table: 8 to 8 and 16 to 16 copy, 16 to 8 takes the low byte, 8 to 16 extends the sign; only the
destination changes. SEX names twelve of the cells (40_load_store_transfer_move.md R160, R161, R162, R164; the free values of
TMP3 are log 7 and log 8). The opcode is $B7 and the postbyte holds the two codes (30_encoding.md R113). That `i_delay` is 1
exactly when I went from 1 to 0 is 92_eei_decisions.md D4 (log 12). -/
def Obligations.TransferCells : Prop :=
  ∀ (s : State) (src dst : XReg),
    let v := regNat src true s
    let w := if src.is8 && !dst.is8 && decide (128 ≤ v) then 0xFF00 + v else v
    let u := putReg dst false w s
    CompletesInto (.tfr src dst) s { u with
      iDelay := s.ccr.i && !u.ccr.i, freeIdx := if src = .tmp then s.freeIdx + 2 else s.freeIdx, pc := s.npc 2 } ∧
    encode (.tfr src dst) = [0xB7, BitVec.ofNat 8 (16 * regCode src + regCode dst)] ∧
    ∀ (f : SexSrc) (g : SexDst), f.reg = src → g.reg = dst →
      exec (.sex f g) s = exec (.tfr src dst) s ∧ encode (.sex f g) = encode (.tfr src dst)

/-- EXG, every cell of its table: both registers are read before either is written; a 16-bit first register facing an 8-bit
second one receives $00 and A, or $FF and B or the CCR; a 16-bit second register facing an 8-bit first one receives $00 and
it; the second register's write stands where the two overlap (40_load_store_transfer_move.md R163, R164; the free values of
TMP2 and TMP3 are log 7 and log 8). The overlapping cells of EXG as the table prints them: A,D and B,D; D,A swaps the
accumulators; D,B sets A to $FF (40_load_store_transfer_move.md R163). The opcode is $B7 and the postbyte holds the two codes
(30_encoding.md R113). That `i_delay` is 1 exactly when the CCR was written and I went from 1 to 0, and 0 in every other cell,
is 92_eei_decisions.md D4 (log 12). -/
def Obligations.ExchangeCells : Prop :=
  (∀ (s : State) (r1 r2 : XReg),
    let v1 := regNat r1 true s
    let v2 := regNat r2 false s
    let fill := if !r1.is8 && r2.is8 && r2 != .a then 0xFF00 else 0
    let u := putReg r2 false v1 (putReg r1 true (fill + v2) s)
    CompletesInto (.exg r1 r2) s { u with
      iDelay := s.ccr.i && !u.ccr.i, freeIdx := (if r1 = .tmp ∨ r2 = .tmp then s.freeIdx + 2 else s.freeIdx),
      pc := s.npc 2 } ∧
    encode (.exg r1 r2) = [0xB7, BitVec.ofNat 8 (128 + 16 * regCode r1 + regCode r2)]) ∧
  (∀ s : State,
    CompletesInto (.exg .a .d) s { s with a := 0, b := s.a, iDelay := false, pc := s.npc 2 } ∧
    CompletesInto (.exg .b .d) s { s with a := 0, iDelay := false, pc := s.npc 2 } ∧
    CompletesInto (.exg .d .a) s { s with a := s.b, b := s.a, iDelay := false, pc := s.npc 2 } ∧
    CompletesInto (.exg .d .b) s { s with a := 0xFF, iDelay := false, pc := s.npc 2 })

/-- TAB and TBA copy one accumulator to the other, N and Z describe the value, V is 0 (40_load_store_transfer_move.md R157,
R158). TAP writes the CCR from A, X only kept or cleared; TPA reads it; TSX, TSY, TXS, TYS copy a 16-bit register, XGDX and
XGDY exchange D with one, and these change no flag (40_load_store_transfer_move.md R165 to R172). That TAP sets `i_delay`
exactly when I went from 1 to 0, and that TPA to XGDY leave it 0, is 92_eei_decisions.md D4 (log 12). -/
def Obligations.NamedTransfers : Prop :=
  (∀ s : State,
    CompletesInto .tab s { s with b := s.a, ccr := s.ccr.moved s.a, pc := s.npc 2 } ∧ encode .tab = [0x18, 0x0E] ∧
    CompletesInto .tba s { s with a := s.b, ccr := s.ccr.moved s.b, pc := s.npc 2 } ∧ encode .tba = [0x18, 0x0F]) ∧
  (∀ s : State,
    CompletesInto .tap s
      { s with ccr := s.ccr.fromData s.a, iDelay := s.ccr.i && !(s.ccr.fromData s.a).i, pc := s.npc 2 } ∧
    encode .tap = [0xB7, 0x02] ∧
    CompletesInto .tpa s { s with a := BitVec.ofNat 8 s.ccr.nat, iDelay := false, pc := s.npc 2 } ∧
    encode .tpa = [0xB7, 0x20] ∧
    CompletesInto .tsx s { s with x := s.sp, pc := s.npc 2, iDelay := false } ∧ encode .tsx = [0xB7, 0x75] ∧
    CompletesInto .tsy s { s with y := s.sp, pc := s.npc 2, iDelay := false } ∧ encode .tsy = [0xB7, 0x76] ∧
    CompletesInto .txs s { s with sp := s.x, pc := s.npc 2, iDelay := false } ∧ encode .txs = [0xB7, 0x57] ∧
    CompletesInto .tys s { s with sp := s.y, pc := s.npc 2, iDelay := false } ∧ encode .tys = [0xB7, 0x67] ∧
    CompletesInto .xgdx s { s.withD s.x.toNat with x := BitVec.ofNat 16 s.dNat, pc := s.npc 2, iDelay := false } ∧
    encode .xgdx = [0xB7, 0xC5] ∧
    CompletesInto .xgdy s { s.withD s.y.toNat with y := BitVec.ofNat 16 s.dNat, pc := s.npc 2, iDelay := false } ∧
    encode .xgdy = [0xB7, 0xC6])

/-! ### Arithmetic -/

/-- ADDA, ADDB, ADCA, ADCB, ABA and the 16-bit ADDD: the sum, C the carry out of it, V its signed overflow, H the carry out of
bit 3, which ADDD does not write (41_arith.md R200 to R205). -/
def Obligations.Additions : Prop :=
  ∀ s : State,
    (∀ src : Src8, let p := s.npc (1 + src.len); let m := src.value p s; let u := src.side p s; let k := s.ccr.c.toNat
      CompletesInto (.adda src) s
        { u with a := BitVec.ofNat 8 (s.a.toNat + m.toNat), ccr := s.ccr.summedH s.a m 0, pc := p } ∧
      CompletesInto (.addb src) s
        { u with b := BitVec.ofNat 8 (s.b.toNat + m.toNat), ccr := s.ccr.summedH s.b m 0, pc := p } ∧
      CompletesInto (.adca src) s
        { u with a := BitVec.ofNat 8 (s.a.toNat + m.toNat + k), ccr := s.ccr.summedH s.a m k, pc := p } ∧
      CompletesInto (.adcb src) s
        { u with b := BitVec.ofNat 8 (s.b.toNat + m.toNat + k), ccr := s.ccr.summedH s.b m k, pc := p }) ∧
    CompletesInto .aba s
      { s with a := BitVec.ofNat 8 (s.a.toNat + s.b.toNat), ccr := s.ccr.summedH s.a s.b 0, pc := s.npc 2 } ∧
    EncodedSrc8 .adda 0x8B 0x9B 0xBB 0xAB ∧ EncodedSrc8 .addb 0xCB 0xDB 0xFB 0xEB ∧
    EncodedSrc8 .adca 0x89 0x99 0xB9 0xA9 ∧ EncodedSrc8 .adcb 0xC9 0xD9 0xF9 0xE9 ∧ encode .aba = [0x18, 0x06] ∧
    (∀ src : Src16, let p := s.npc (1 + src.len); let m := src.value p s; let u := src.side p s
      CompletesInto (.addd src) s { u.withD (s.dNat + m.toNat) with
        ccr := s.ccr.summed (BitVec.ofNat 16 s.dNat) m 0, pc := p }) ∧
    EncodedSrc16 .addd 0xC3 0xD3 0xF3 0xE3

/-- SUBA, SUBB, SBCA, SBCB, SBA and the 16-bit SUBD: the difference, C the unsigned borrow, V the signed overflow; H is not
written (41_arith.md R208 to R213). -/
def Obligations.Subtractions : Prop :=
  ∀ s : State,
    (∀ src : Src8, let p := s.npc (1 + src.len); let m := src.value p s; let u := src.side p s; let k := s.ccr.c.toNat
      CompletesInto (.suba src) s
        { u with a := BitVec.ofInt 8 ((s.a.toNat : Int) - m.toNat), ccr := s.ccr.subtracted s.a m 0, pc := p } ∧
      CompletesInto (.subb src) s
        { u with b := BitVec.ofInt 8 ((s.b.toNat : Int) - m.toNat), ccr := s.ccr.subtracted s.b m 0, pc := p } ∧
      CompletesInto (.sbca src) s
        { u with a := BitVec.ofInt 8 ((s.a.toNat : Int) - m.toNat - k), ccr := s.ccr.subtracted s.a m k, pc := p } ∧
      CompletesInto (.sbcb src) s
        { u with b := BitVec.ofInt 8 ((s.b.toNat : Int) - m.toNat - k), ccr := s.ccr.subtracted s.b m k, pc := p }) ∧
    CompletesInto .sba s
      { s with a := BitVec.ofInt 8 ((s.a.toNat : Int) - s.b.toNat), ccr := s.ccr.subtracted s.a s.b 0, pc := s.npc 2 } ∧
    EncodedSrc8 .suba 0x80 0x90 0xB0 0xA0 ∧ EncodedSrc8 .subb 0xC0 0xD0 0xF0 0xE0 ∧
    EncodedSrc8 .sbca 0x82 0x92 0xB2 0xA2 ∧ EncodedSrc8 .sbcb 0xC2 0xD2 0xF2 0xE2 ∧ encode .sba = [0x18, 0x16] ∧
    (∀ src : Src16, let p := s.npc (1 + src.len); let m := src.value p s; let u := src.side p s
      CompletesInto (.subd src) s { u.withD (s.dNat + 65536 - m.toNat) with
        ccr := s.ccr.subtracted (BitVec.ofNat 16 s.dNat) m 0, pc := p }) ∧
    EncodedSrc16 .subd 0x83 0x93 0xB3 0xA3

/-- CMPA, CMPB, CBA, CPD, CPX, CPY, CPS write the flags of the subtraction and nothing else; an index register or SP is
compared as the operand's adjustment leaves it (41_arith.md R227 to R233; that order is 92_eei_decisions.md D9, log 14). -/
def Obligations.ComparesWriteFlagsOnly : Prop :=
  ∀ s : State,
    (∀ src : Src8, let p := s.npc (1 + src.len); let m := src.value p s; let u := src.side p s
      CompletesInto (.cmpa src) s { u with ccr := s.ccr.subtracted s.a m 0, pc := p } ∧
      CompletesInto (.cmpb src) s { u with ccr := s.ccr.subtracted s.b m 0, pc := p }) ∧
    CompletesInto .cba s { s with ccr := s.ccr.subtracted s.a s.b 0, pc := s.npc 2 } ∧
    (∀ src : Src16, let p := s.npc (1 + src.len); let m := src.value p s; let u := src.side p s
      CompletesInto (.cpd src) s { u with ccr := s.ccr.subtracted (BitVec.ofNat 16 s.dNat) m 0, pc := p } ∧
      CompletesInto (.cpx src) s { u with ccr := s.ccr.subtracted u.x m 0, pc := p } ∧
      CompletesInto (.cpy src) s { u with ccr := s.ccr.subtracted u.y m 0, pc := p } ∧
      CompletesInto (.cps src) s { u with ccr := s.ccr.subtracted u.sp m 0, pc := p }) ∧
    EncodedSrc8 .cmpa 0x81 0x91 0xB1 0xA1 ∧ EncodedSrc8 .cmpb 0xC1 0xD1 0xF1 0xE1 ∧ encode .cba = [0x18, 0x17] ∧
    EncodedSrc16 .cpd 0x8C 0x9C 0xBC 0xAC ∧ EncodedSrc16 .cpx 0x8E 0x9E 0xBE 0xAE ∧
    EncodedSrc16 .cpy 0x8D 0x9D 0xBD 0xAD ∧ EncodedSrc16 .cps 0x8F 0x9F 0xBF 0xAF

/-- After CMPA the branches mean what their names say: BHI, BLS, BHS, BLO compare unsigned, BGT, BLE, BGE, BLT signed, BEQ and
BNE test equality; a taken branch goes to the address after it plus the signed offset (45_branch.md R382). -/
def Obligations.BranchesAfterCompare : Prop :=
  ∀ (s t : State) (m rr : Byte), exec (.cmpa (.imm m)) s = .next t →
    let go := fun b : Bool => { t with pc := BitVec.ofInt 16 (t.pc.toNat + 2 + (if b then rr.toInt else 0)) }
    exec (.bhi rr) t = .next (go (decide (m.toNat < s.a.toNat))) ∧
    exec (.bls rr) t = .next (go (decide (s.a.toNat ≤ m.toNat))) ∧
    exec (.bhs rr) t = .next (go (decide (m.toNat ≤ s.a.toNat))) ∧
    exec (.blo rr) t = .next (go (decide (s.a.toNat < m.toNat))) ∧
    exec (.bgt rr) t = .next (go (decide (m.toInt < s.a.toInt))) ∧
    exec (.ble rr) t = .next (go (decide (s.a.toInt ≤ m.toInt))) ∧
    exec (.bge rr) t = .next (go (decide (m.toInt ≤ s.a.toInt))) ∧
    exec (.blt rr) t = .next (go (decide (s.a.toInt < m.toInt))) ∧
    exec (.beq rr) t = .next (go (decide (s.a = m))) ∧ exec (.bne rr) t = .next (go (decide (s.a ≠ m)))

/-- INCA, INCB, DECA, DECB, INX, INY, DEX, DEY, INS, DES, ABX, ABY: V of the byte forms is the signed overflow and C is kept;
INX to DEY write Z alone; INS, DES, ABX, ABY write no flag (41_arith.md R206, R207, R216, R217, R219 to R226). -/
def Obligations.RegisterIncrementsAndDecrements : Prop :=
  ∀ s : State,
    CompletesInto .inca s { s with
      a := s.a + 1, pc := s.npc 1,
      ccr := { s.ccr.sign (s.a + 1) with v := overflows 8 (s.a.toInt + 1) } } ∧
    CompletesInto .incb s { s with
      b := s.b + 1, pc := s.npc 1,
      ccr := { s.ccr.sign (s.b + 1) with v := overflows 8 (s.b.toInt + 1) } } ∧
    CompletesInto .deca s { s with
      a := s.a - 1, pc := s.npc 1,
      ccr := { s.ccr.sign (s.a - 1) with v := overflows 8 (s.a.toInt - 1) } } ∧
    CompletesInto .decb s { s with
      b := s.b - 1, pc := s.npc 1,
      ccr := { s.ccr.sign (s.b - 1) with v := overflows 8 (s.b.toInt - 1) } } ∧
    CompletesInto .inx s { s with x := s.x + 1, ccr := { s.ccr with z := isZero (s.x + 1) }, pc := s.npc 1 } ∧
    CompletesInto .iny s { s with y := s.y + 1, ccr := { s.ccr with z := isZero (s.y + 1) }, pc := s.npc 1 } ∧
    CompletesInto .dex s { s with x := s.x - 1, ccr := { s.ccr with z := isZero (s.x - 1) }, pc := s.npc 1 } ∧
    CompletesInto .dey s { s with y := s.y - 1, ccr := { s.ccr with z := isZero (s.y - 1) }, pc := s.npc 1 } ∧
    CompletesInto .ins s { s with sp := s.sp + 1, pc := s.npc 2 } ∧
    CompletesInto .des s { s with sp := s.sp - 1, pc := s.npc 2 } ∧
    CompletesInto .abx s { s with x := BitVec.ofNat 16 (s.x.toNat + s.b.toNat), pc := s.npc 2 } ∧
    CompletesInto .aby s { s with y := BitVec.ofNat 16 (s.y.toNat + s.b.toNat), pc := s.npc 2 } ∧
    encode .inca = [0x42] ∧ encode .incb = [0x52] ∧ encode .deca = [0x43] ∧ encode .decb = [0x53] ∧
    encode .inx = [0x08] ∧ encode .iny = [0x02] ∧ encode .dex = [0x09] ∧ encode .dey = [0x03] ∧
    encode .ins = [0x1B, 0x81] ∧ encode .des = [0x1B, 0x9F] ∧ encode .abx = [0x1A, 0xE5] ∧ encode .aby = [0x19, 0xED]

/-- INC, DEC, CLR, COM, NEG on memory: one byte at the effective address is replaced; INC and DEC keep C, CLR clears N, V, C
and sets Z, COM sets C and clears V, NEG has the flags of subtracting from zero (41_arith.md R215, R218, R237, R240, R243).
BSET and BCLR replace one byte of memory by itself with the mask's bits set or cleared, whatever the mask
(42_logic_bit_shift.md R269, R270). -/
def Obligations.MemoryModifyInstructions : Prop :=
  (∀ (s : State) (ad : ExtIdx),
    let p := s.npc (1 + ad.len); let u := ad.side p s; let ea := ad.ea p s; let m := u.readByte ea; let r := u.touch ea
    StoresInto (.inc ad) s
      { r with pc := p, ccr := { s.ccr.sign (m + 1) with v := overflows 8 (m.toInt + 1) } } ea [m + 1] ∧
    StoresInto (.dec ad) s
      { r with pc := p, ccr := { s.ccr.sign (m - 1) with v := overflows 8 (m.toInt - 1) } } ea [m - 1] ∧
    StoresInto (.clr ad) s { u with pc := p, ccr := { s.ccr with n := false, z := true, v := false, c := false } } ea [0] ∧
    StoresInto (.com ad) s { r with pc := p, ccr := { s.ccr.moved (BitVec.ofNat 8 (255 - m.toNat)) with c := true } } ea
      [BitVec.ofNat 8 (255 - m.toNat)] ∧
    StoresInto (.neg ad) s { r with pc := p, ccr := s.ccr.subtracted (0 : Byte) m 0 } ea
      [BitVec.ofNat 8 (256 - m.toNat)] ∧
    EncodedExt .inc 0x72 0x62 ∧ EncodedExt .dec 0x73 0x63 ∧ EncodedExt .clr 0x79 0x69 ∧ EncodedExt .com 0x71 0x61 ∧
    EncodedExt .neg 0x70 0x60) ∧
  (∀ (s : State) (ad : MemOp) (mm : Byte),
    let p := s.npc (2 + ad.len); let u := ad.side p s; let ea := ad.ea p s; let m := u.readByte ea; let r := u.touch ea
    StoresInto (.bset ad mm) s { r with ccr := s.ccr.moved (m ||| mm), pc := p } ea [m ||| mm] ∧
    StoresInto (.bclr ad mm) s { r with ccr := s.ccr.moved (m &&& ~~~mm), pc := p } ea [m &&& ~~~mm] ∧
    EncodedMem (fun o => .bset o mm) 0x4C 0x1C 0x0C [mm] ∧ EncodedMem (fun o => .bclr o mm) 0x4D 0x1D 0x0D [mm])

/-- CLRA, CLRB, COMA, COMB, NEGA, NEGB on an accumulator, and TSTA, TSTB, TST, which only write flags: N and Z of the value,
V and C 0 (41_arith.md R234, R235, R236, R238, R239, R241, R242, R244, R245). -/
def Obligations.AccumulatorModifyAndTest : Prop :=
  ∀ s : State,
    CompletesInto .clra s
      { s with a := 0, pc := s.npc 1, ccr := { s.ccr with n := false, z := true, v := false, c := false } } ∧
    CompletesInto .clrb s
      { s with b := 0, pc := s.npc 1, ccr := { s.ccr with n := false, z := true, v := false, c := false } } ∧
    CompletesInto .coma s { s with
      a := BitVec.ofNat 8 (255 - s.a.toNat), pc := s.npc 1,
      ccr := { s.ccr.moved (BitVec.ofNat 8 (255 - s.a.toNat)) with c := true } } ∧
    CompletesInto .comb s { s with
      b := BitVec.ofNat 8 (255 - s.b.toNat), pc := s.npc 1,
      ccr := { s.ccr.moved (BitVec.ofNat 8 (255 - s.b.toNat)) with c := true } } ∧
    CompletesInto .nega s { s with
      a := BitVec.ofNat 8 (256 - s.a.toNat), pc := s.npc 1,
      ccr := s.ccr.subtracted (0 : Byte) s.a 0 } ∧
    CompletesInto .negb s { s with
      b := BitVec.ofNat 8 (256 - s.b.toNat), pc := s.npc 1,
      ccr := s.ccr.subtracted (0 : Byte) s.b 0 } ∧
    CompletesInto .tsta s { s with ccr := { s.ccr.moved s.a with c := false }, pc := s.npc 1 } ∧
    CompletesInto .tstb s { s with ccr := { s.ccr.moved s.b with c := false }, pc := s.npc 1 } ∧
    (∀ ad : ExtIdx, let p := s.npc (1 + ad.len); let u := ad.side p s; let ea := ad.ea p s
      CompletesInto (.tst ad) s { u.touch ea with ccr := { s.ccr.moved (u.readByte ea) with c := false }, pc := p }) ∧
    encode .clra = [0x87] ∧ encode .clrb = [0xC7] ∧ encode .coma = [0x41] ∧ encode .comb = [0x51] ∧ encode .nega = [0x40] ∧
    encode .negb = [0x50] ∧ encode .tsta = [0x97] ∧ encode .tstb = [0xD7] ∧ EncodedExt .tst 0xF7 0xE7

/-- DAA after ADCA on two-digit BCD operands leaves the BCD sum of the two and the carry, the decimal carry out in C; it
changes A, N, Z, V, C and the PC only, V being undefined (41_arith.md R214; 93_implementation_defined.md U1, log 7). DAA
completes on every A, also outside the table of legal combinations, by the algorithm the rule prints: $06 for a low digit
above 9 or H, $60 for a high digit above 9, for 9 with a low digit above 9, or for C (41_arith.md R214; that the algorithm is
applied outside the table is log 22, V a free value log 7). -/
def Obligations.DecimalAdjust : Prop :=
  (∀ (s t : State) (m : Byte), isBcd s.a = true → isBcd m = true → exec (.adca (.imm m)) s = .next t →
    ∃ u, exec .daa t = .next u ∧ isBcd u.a = true ∧
      bcdNat u.a + 100 * u.ccr.c.toNat = bcdNat s.a + bcdNat m + s.ccr.c.toNat ∧
      u = { t with
                   a := u.a, pc := t.npc 2, freeIdx := t.freeIdx + 1,
                   ccr := { t.ccr.sign u.a with v := t.freeBit 0, c := u.ccr.c } }) ∧
  (∀ s : State, let lo := s.a.toNat % 16; let hi := s.a.toNat / 16
    let up := decide (9 < hi ∨ (hi = 9 ∧ 9 < lo)) || s.ccr.c
    let r := BitVec.ofNat 8 (s.a.toNat + (if 9 < lo ∨ s.ccr.h = true then 6 else 0) + (if up = true then 96 else 0))
    CompletesInto .daa s { s with
                                  a := r, pc := s.npc 2, freeIdx := s.freeIdx + 1,
                                  ccr := { s.ccr.sign r with v := s.freeBit 0, c := up } } ∧
    encode .daa = [0x18, 0x07])

/-! ### Logic, bits, condition codes, shifts -/

/-- ANDA, ANDB, ORAA, ORAB, EORA, EORB, BITA, BITB: bit by bit, N and Z of the result, V 0, C kept; BITA and BITB write no
accumulator (42_logic_bit_shift.md R261 to R268). -/
def Obligations.BooleanLogic : Prop :=
  ∀ (s : State) (src : Src8), let p := s.npc (1 + src.len); let m := src.value p s; let u := src.side p s
    CompletesInto (.anda src) s { u with a := s.a &&& m, ccr := s.ccr.moved (s.a &&& m), pc := p } ∧
    CompletesInto (.andb src) s { u with b := s.b &&& m, ccr := s.ccr.moved (s.b &&& m), pc := p } ∧
    CompletesInto (.oraa src) s { u with a := s.a ||| m, ccr := s.ccr.moved (s.a ||| m), pc := p } ∧
    CompletesInto (.orab src) s { u with b := s.b ||| m, ccr := s.ccr.moved (s.b ||| m), pc := p } ∧
    CompletesInto (.eora src) s { u with a := s.a ^^^ m, ccr := s.ccr.moved (s.a ^^^ m), pc := p } ∧
    CompletesInto (.eorb src) s { u with b := s.b ^^^ m, ccr := s.ccr.moved (s.b ^^^ m), pc := p } ∧
    CompletesInto (.bita src) s { u with ccr := s.ccr.moved (s.a &&& m), pc := p } ∧
    CompletesInto (.bitb src) s { u with ccr := s.ccr.moved (s.b &&& m), pc := p } ∧
    EncodedSrc8 .anda 0x84 0x94 0xB4 0xA4 ∧ EncodedSrc8 .andb 0xC4 0xD4 0xF4 0xE4 ∧
    EncodedSrc8 .oraa 0x8A 0x9A 0xBA 0xAA ∧ EncodedSrc8 .orab 0xCA 0xDA 0xFA 0xEA ∧
    EncodedSrc8 .eora 0x88 0x98 0xB8 0xA8 ∧ EncodedSrc8 .eorb 0xC8 0xD8 0xF8 0xE8 ∧
    EncodedSrc8 .bita 0x85 0x95 0xB5 0xA5 ∧ EncodedSrc8 .bitb 0xC5 0xD5 0xF5 0xE5

/-- ANDCC and ORCC and their second names: ANDCC clears the CCR bits whose mask bit is 0, ORCC sets those whose mask bit is 1
except X, which no instruction sets (42_logic_bit_shift.md R271 to R278; 10_state.md R27). That ANDCC and CLI set `i_delay`
exactly when I goes from 1 to 0, and that CLC and CLV leave it 0, is 92_eei_decisions.md D4 (log 12). -/
def Obligations.ConditionCodeInstructions : Prop :=
  ∀ (s : State) (ii : Byte),
    let f := s.ccr.fromData (BitVec.ofNat 8 s.ccr.nat &&& ii)
    let g := s.ccr.fromData (BitVec.ofNat 8 s.ccr.nat ||| ii)
    CompletesInto (.andcc ii) s { s with ccr := f, iDelay := s.ccr.i && !f.i, pc := s.npc 2 } ∧
    CompletesInto (.orcc ii) s { s with ccr := g, pc := s.npc 2 } ∧ g.x = s.ccr.x ∧
    CompletesInto .clc s { s with ccr := { s.ccr with c := false }, iDelay := false, pc := s.npc 2 } ∧
    CompletesInto .cli s { s with ccr := { s.ccr with i := false }, iDelay := s.ccr.i, pc := s.npc 2 } ∧
    CompletesInto .clv s { s with ccr := { s.ccr with v := false }, iDelay := false, pc := s.npc 2 } ∧
    CompletesInto .sec s { s with ccr := { s.ccr with c := true }, pc := s.npc 2 } ∧
    CompletesInto .sei s { s with ccr := { s.ccr with i := true }, pc := s.npc 2 } ∧
    CompletesInto .sev s { s with ccr := { s.ccr with v := true }, pc := s.npc 2 } ∧
    encode (.andcc ii) = [0x10, ii] ∧ encode (.orcc ii) = [0x14, ii] ∧ encode .clc = [0x10, 0xFE] ∧
    encode .cli = [0x10, 0xEF] ∧ encode .clv = [0x10, 0xFD] ∧ encode .sec = [0x14, 0x01] ∧ encode .sei = [0x14, 0x10] ∧
    encode .sev = [0x14, 0x02]

/-- The shifts and rotates of A, B and D, as arithmetic: twice or half the value, the bit shifted out in C, the rotates taking
C in, N and Z of the result, V = N xor C (42_logic_bit_shift.md R281, R282, R283, R285, R286, R288, R289, R290, R292, R293,
R294 and the rotates R296, R297, R299, R300). -/
def Obligations.AccumulatorShifts : Prop :=
  ∀ s : State,
    ShiftsA .left s .asla 0x48 ∧ ShiftsB .left s .aslb 0x58 ∧ ShiftsA .left s .lsla 0x48 ∧ ShiftsB .left s .lslb 0x58 ∧
    ShiftsA .arithmeticRight s .asra 0x47 ∧ ShiftsB .arithmeticRight s .asrb 0x57 ∧
    ShiftsA .logicalRight s .lsra 0x44 ∧ ShiftsB .logicalRight s .lsrb 0x54 ∧
    ShiftsA .rotateLeft s .rola 0x45 ∧ ShiftsB .rotateLeft s .rolb 0x55 ∧
    ShiftsA .rotateRight s .rora 0x46 ∧ ShiftsB .rotateRight s .rorb 0x56 ∧
    ShiftsD .left s .asld 0x59 ∧ ShiftsD .left s .lsld 0x59 ∧ ShiftsD .logicalRight s .lsrd 0x49

/-- The shifts and rotates of a byte in memory: one byte at the effective address is replaced, the flags are those of the
accumulator forms (42_logic_bit_shift.md R280, R284, R287, R291, R295, R298). -/
def Obligations.MemoryShifts : Prop :=
  ∀ (s : State) (ad : ExtIdx),
    ShiftsMemory .left s .asl ad 0x78 0x68 ∧ ShiftsMemory .left s .lsl ad 0x78 0x68 ∧
    ShiftsMemory .arithmeticRight s .asr ad 0x77 0x67 ∧ ShiftsMemory .logicalRight s .lsr ad 0x74 0x64 ∧
    ShiftsMemory .rotateLeft s .rol ad 0x75 0x65 ∧ ShiftsMemory .rotateRight s .ror ad 0x76 0x66

/-! ### Multiply and divide -/

/-- MUL, EMUL, EMULS: the exact product, C its bit 7 (MUL) or bit 15; MUL writes no other flag, EMUL and EMULS keep V
(43_muldiv.md R322, R323, R324). EMACS adds the signed product of the words at X and Y to the 32-bit number in memory, mod
2^32: N and Z of the sum, V its signed overflow, C the carry from the low word to the high word; no register changes; the word
at X, the word at Y and the number are read in this order, and then the sum is written (43_muldiv.md R330). -/
def Obligations.ProductsAndAccumulate : Prop :=
  (∀ s : State,
    let p := s.a.toNat * s.b.toNat
    let q := s.dNat * s.y.toNat
    let r := (BitVec.ofInt 32 ((BitVec.ofNat 16 s.dNat).toInt * s.y.toInt))
    CompletesInto .mul s { s.withD p with ccr := { s.ccr with c := decide (128 ≤ p % 256) }, pc := s.npc 1 } ∧
    CompletesInto .emul s { s.withD q with
      y := BitVec.ofNat 16 (q / 65536), pc := s.npc 1,
      ccr := { s.ccr with n := decide (2 ^ 31 ≤ q), z := decide (q = 0), c := decide (32768 ≤ q % 65536) } } ∧
    CompletesInto .emuls s { s.withD r.toNat with
      y := BitVec.ofNat 16 (r.toNat / 65536), pc := s.npc 2,
      ccr := { s.ccr with n := isNeg r, z := isZero r, c := decide (32768 ≤ r.toNat % 65536) } } ∧
    encode .mul = [0x12] ∧ encode .emul = [0x13] ∧ encode .emuls = [0x18, 0x13]) ∧
  (∀ (s : State) (a : Word),
    let s1 := s.touchWord s.x; let s2 := s1.touchWord s.y; let s3 := s2.touchWord a
    let i := BitVec.ofInt 32 ((s.readWord s.x).toInt * (s1.readWord s.y).toInt)
    let acc := BitVec.ofNat 32 (65536 * (s2.readWord a).toNat + (s3.readWord (a + 2)).toNat)
    let r := BitVec.ofInt 32 (acc.toInt + i.toInt)
    StoresInto (.emacs a) s { s3.touchWord (a + 2) with
      pc := s.npc 4,
      ccr := { s.ccr.sign r with
        v := overflows 32 (acc.toInt + i.toInt), c := decide (65536 ≤ acc.toNat % 65536 + i.toNat % 65536) } } a
      (wordBE (BitVec.ofNat 16 (r.toNat / 65536)) ++ wordBE (BitVec.ofNat 16 r.toNat)) ∧
    encode (.emacs a) = [0x18, 0x12] ++ wordBE a)

/-- EDIV, IDIV, FDIV where the quotient is defined: quotient × divisor + remainder is the dividend and the remainder is less
than the divisor; V = C = 0, only the named registers change (43_muldiv.md R325, R327, R328); their opcodes
(30_encoding.md R120, R121). -/
def Obligations.UnsignedDivisions : Prop :=
  encode .ediv = [0x11] ∧ encode .idiv = [0x18, 0x10] ∧ encode .fdiv = [0x18, 0x11] ∧
  ∀ s : State, 0 < s.x.toNat →
    (65536 * s.y.toNat + s.dNat < 65536 * s.x.toNat → ∃ t, exec .ediv s = .next t ∧
      t.y.toNat * s.x.toNat + t.dNat = 65536 * s.y.toNat + s.dNat ∧ t.dNat < s.x.toNat ∧
      t = { s with
                   a := t.a, b := t.b, y := t.y, pc := s.npc 1,
                   ccr := { s.ccr.sign t.y with v := false, c := false } }) ∧
    (∃ t, exec .idiv s = .next t ∧ t.x.toNat * s.x.toNat + t.dNat = s.dNat ∧ t.dNat < s.x.toNat ∧
      t = { s with
                   a := t.a, b := t.b, x := t.x, pc := s.npc 2,
                   ccr := { s.ccr with z := isZero t.x, v := false, c := false } }) ∧
    (s.dNat < s.x.toNat → ∃ t, exec .fdiv s = .next t ∧
      t.x.toNat * s.x.toNat + t.dNat = 65536 * s.dNat ∧ t.dNat < s.x.toNat ∧
      t = { s with
                   a := t.a, b := t.b, x := t.x, pc := s.npc 2,
                   ccr := { s.ccr with z := isZero t.x, v := false, c := false } })

/-- EDIVS and IDIVS where the quotient fits 16 signed bits: quotient × divisor + remainder is the dividend, the remainder is
smaller in size than the divisor and has the dividend's sign or is zero; N and Z of the quotient, V = C = 0
(43_muldiv.md R326, R329; truncation toward zero is 92_eei_decisions.md D11, log 15); their opcodes (30_encoding.md R121). -/
def Obligations.SignedDivisions : Prop :=
  encode .edivs = [0x18, 0x14] ∧ encode .idivs = [0x18, 0x15] ∧
  ∀ s : State, s.x.toInt ≠ 0 →
    (let n := (s.y ++ BitVec.ofNat 16 s.dNat).toInt;
     -32768 ≤ n.tdiv s.x.toInt → n.tdiv s.x.toInt ≤ 32767 → ∃ t, exec .edivs s = .next t ∧
      t.y.toInt * s.x.toInt + (BitVec.ofNat 16 t.dNat).toInt = n ∧
      (BitVec.ofNat 16 t.dNat).toInt.natAbs < s.x.toInt.natAbs ∧ 0 ≤ (BitVec.ofNat 16 t.dNat).toInt * n ∧
      t = { s with
                   a := t.a, b := t.b, y := t.y, pc := s.npc 2,
                   ccr := { s.ccr.sign t.y with v := false, c := false } }) ∧
    (let n := (BitVec.ofNat 16 s.dNat).toInt;
     ¬(n = -32768 ∧ s.x.toInt = -1) → ∃ t, exec .idivs s = .next t ∧
      t.x.toInt * s.x.toInt + (BitVec.ofNat 16 t.dNat).toInt = n ∧
      (BitVec.ofNat 16 t.dNat).toInt.natAbs < s.x.toInt.natAbs ∧ 0 ≤ (BitVec.ofNat 16 t.dNat).toInt * n ∧
      t = { s with
                   a := t.a, b := t.b, x := t.x, pc := s.npc 2,
                   ccr := { s.ccr.sign t.x with v := false, c := false } })

/-- Division by zero and overflow stop nothing: EDIV, EDIVS, IDIVS by zero set C and keep the registers, their overflow sets V
and clears C; IDIV and FDIV by zero, and FDIV overflow, put $FFFF in X. The flags and the remainder the rules call undefined
are free values (43_muldiv.md R325 to R329; 93_implementation_defined.md U2, U8; log 7; X and D after IDIVS overflow: U9,
log 16). -/
def Obligations.DivisionByZeroAndOverflow : Prop :=
  ∀ s : State,
    let n := (s.y ++ BitVec.ofNat 16 s.dNat).toInt
    let dz := { s.ccr with n := s.freeBit 0, z := s.freeBit 1, v := s.freeBit 2, c := true }
    let ovf := { s.ccr with n := s.freeBit 0, z := s.freeBit 1, v := true, c := false }
    let lost := { s.withD (s.freeWord 0).toNat with x := 0xFFFF, freeIdx := s.freeIdx + 1, pc := s.npc 2 }
    (s.x = 0 →
      CompletesInto .ediv s { s with ccr := dz, freeIdx := s.freeIdx + 3, pc := s.npc 1 } ∧
      CompletesInto .edivs s { s with ccr := dz, freeIdx := s.freeIdx + 3, pc := s.npc 2 } ∧
      CompletesInto .idivs s { s with ccr := dz, freeIdx := s.freeIdx + 3, pc := s.npc 2 } ∧
      CompletesInto .idiv s { lost with ccr := { s.ccr with z := false, v := false, c := true } } ∧
      CompletesInto .fdiv s { lost with ccr := { s.ccr with z := false, v := true, c := true } }) ∧
    (s.x ≠ 0 → s.x.toNat ≤ s.dNat →
      CompletesInto .fdiv s { lost with ccr := { s.ccr with z := false, v := true, c := false } }) ∧
    (s.x ≠ 0 → 65536 * s.x.toNat ≤ 65536 * s.y.toNat + s.dNat →
      CompletesInto .ediv s { s with ccr := ovf, freeIdx := s.freeIdx + 2, pc := s.npc 1 }) ∧
    (s.x ≠ 0 → n.tdiv s.x.toInt < -32768 ∨ 32767 < n.tdiv s.x.toInt →
      CompletesInto .edivs s { s with ccr := ovf, freeIdx := s.freeIdx + 2, pc := s.npc 2 }) ∧
    (s.x = 0xFFFF → s.dNat = 0x8000 →
      CompletesInto .idivs s { s.withD Config.idivsOverflowD.toNat with
        x := Config.idivsOverflowX, ccr := ovf, freeIdx := s.freeIdx + 2, pc := s.npc 2 })

/-! ### Fuzzy logic, minimum, maximum, interpolation -/

/-- MEM writes the grade at Y, adds 4 to X and 1 to Y and keeps A and B. The grade is $00 outside the trapezoid; inside, the
left slope decides while it is at most $FF, else the right one, else $FF, a slope of $00 being vertical; H, N, Z, V, C are free
values (44_fuzzy_minmax_table.md R342; 93_implementation_defined.md U1, log 7). -/
def Obligations.MembershipGrade : Prop :=
  ∀ s : State,
    let r1 := s.touch s.x; let r2 := r1.touch (s.x + 1); let r3 := r2.touch (s.x + 2); let r4 := r3.touch (s.x + 3)
    let p1 := (s.readByte s.x).toNat; let p2 := (r1.readByte (s.x + 1)).toNat
    let s1 := (r2.readByte (s.x + 2)).toNat; let s2 := (r3.readByte (s.x + 3)).toNat
    let grade := if s.a.toNat < p1 ∨ p2 < s.a.toNat then 0
      else if s1 ≠ 0 ∧ s1 * (s.a.toNat - p1) ≤ 255 then s1 * (s.a.toNat - p1)
      else if s2 ≠ 0 ∧ s2 * (p2 - s.a.toNat) ≤ 255 then s2 * (p2 - s.a.toNat) else 255
    StoresInto .mem s { r4 with
      x := s.x + 4, y := s.y + 1, pc := s.npc 1, freeIdx := s.freeIdx + 5,
      ccr := { s.ccr with h := s.freeBit 0, n := s.freeBit 1, z := s.freeBit 2, v := s.freeBit 3, c := s.freeBit 4 } }
      s.y [BitVec.ofNat 8 grade] ∧
    encode .mem = [0x01]

/-- One rule element of REV: $FF ends the instruction; $FE toggles V and, at the end of a rule's consequents, sets A to $FF;
an antecedent lowers A to the fuzzy input; a consequent raises the fuzzy output to A, or writes nothing. X moves by one; until
the $FF the PC stays at the REV, so an interrupt is taken between elements (44_fuzzy_minmax_table.md R344, R345; log 19). One
rule element of REVW: the word $FFFF ends the instruction; $FFFE toggles V, sets A to $FF after consequents, and after
antecedents with C = 1 weights A by (weight + 1) / 256 and steps Y; an antecedent lowers A, a consequent raises the fuzzy
output. C is never changed (44_fuzzy_minmax_table.md R346, R347; B after a weighted separator is U10, log 20). The element is
the one read ahead, if there is one, and the next element is read, as memory stands before the fuzzy output is written and
after this element's own fuzzy value or weight is read, for the step to come: a consequent written over it leaves the old one
in use (R344(d), R346(e)). That a REVW takes it also where a REV, which a consequent then turned into it, read it ahead, or a
REV where a REVW did, is the model's choice (log 19). -/
def Obligations.RuleElements : Prop :=
  (∀ s : State,
    let e : Byte := match s.ruleAhead with
      | some w => BitVec.ofNat 8 w.toNat
      | none => s.readByte s.x
    let r := if s.ruleAhead = none then s.touch s.x else s
    let fa := s.y + BitVec.ofNat 16 e.toNat
    let f := r.readByte fa
    let last := fun u : State => { u with
                         x := s.x + 1, freeIdx := s.freeIdx + 4, ruleAhead := none,
                         ccr := { s.ccr with h := s.freeBit 0, n := s.freeBit 1, z := s.freeBit 2, c := s.freeBit 3 } }
    let base := fun u : State => { last (u.touch (s.x + 1)) with
                         ruleAhead := some (BitVec.ofNat 16 (u.readByte (s.x + 1)).toNat) }
    (e = 0xFF → CompletesInto .rev s { last r with pc := s.npc 2 }) ∧
    (e = 0xFE → CompletesInto .rev s
      { base r with a := if s.ccr.v = true then 0xFF else s.a, ccr := { (base r).ccr with v := !s.ccr.v } }) ∧
    (e.toNat < 0xFE → s.ccr.v = false →
      CompletesInto .rev s { base (r.touch fa) with a := BitVec.ofNat 8 (min s.a.toNat f.toNat) }) ∧
    (e.toNat < 0xFE → s.ccr.v = true → s.a.toNat ≤ f.toNat → CompletesInto .rev s (base (r.touch fa))) ∧
    (e.toNat < 0xFE → s.ccr.v = true → f.toNat < s.a.toNat → StoresInto .rev s (base (r.touch fa)) fa [s.a]) ∧
    encode .rev = [0x18, 0x3A]) ∧
  (∀ s : State,
    let e : Word := match s.ruleAhead with
      | some w => w
      | none => s.readWord s.x
    let r := if s.ruleAhead = none then s.touchWord s.x else s
    let f := r.readByte e
    let p := ((r.readByte s.y).toNat + 1) * s.a.toNat
    let last := fun u : State => { u with
                         x := s.x + 2, freeIdx := s.freeIdx + 3, ruleAhead := none,
                         ccr := { s.ccr with h := s.freeBit 0, n := s.freeBit 1, z := s.freeBit 2 } }
    let base := fun u : State => { last (u.touchWord (s.x + 2)) with ruleAhead := some (u.readWord (s.x + 2)) }
    (e = 0xFFFF → CompletesInto .revw s { last r with pc := s.npc 2 }) ∧
    (e = 0xFFFE → s.ccr.v = true →
      CompletesInto .revw s { base r with a := 0xFF, ccr := { (base r).ccr with v := false } }) ∧
    (e = 0xFFFE → s.ccr.v = false → s.ccr.c = false →
      CompletesInto .revw s { base r with ccr := { (base r).ccr with v := true } }) ∧
    (e = 0xFFFE → s.ccr.v = false → s.ccr.c = true → CompletesInto .revw s { base (r.touch s.y) with
      a := BitVec.ofNat 8 (p / 256), b := if Config.revwKeepsB = true then s.b else BitVec.ofNat 8 p, y := s.y + 1,
      ccr := { (base r).ccr with v := true } }) ∧
    (e.toNat < 0xFFFE → s.ccr.v = false →
      CompletesInto .revw s { base (r.touch e) with a := BitVec.ofNat 8 (min s.a.toNat f.toNat) }) ∧
    (e.toNat < 0xFFFE → s.ccr.v = true → s.a.toNat ≤ f.toNat → CompletesInto .revw s (base (r.touch e))) ∧
    (e.toNat < 0xFFFE → s.ccr.v = true → f.toNat < s.a.toNat → StoresInto .revw s (base (r.touch e)) e [s.a]) ∧
    encode .revw = [0x18, 0x3B])

/-- WAV with no request during its passes: Y : D is the sum of the products of the B pairs, X the sum of the fuzzy outputs, B
being 256 when it is $00, each pair read once, its fuzzy output first; Z is 1, H, N, V, C are free values, one boundary sample
is used per pass, and memory is not written (44_fuzzy_minmax_table.md R351; log 21). wavr, with no request during the rest of
the passes, pulls the three temporaries, adds the pair below the pointers and goes on as WAV for the B pairs left: the result
is the sums pulled plus those pairs (44_fuzzy_minmax_table.md R353). -/
def Obligations.WeightedAverageSums : Prop :=
  (∀ s : State,
    let n := if s.b = 0 then 256 else s.b.toNat
    let sop := s.sumOfProducts n
    let sow := s.sumOfWeights n
    (∀ q ∈ s.inputs.take n, q.NoReset ∧ s.interruptPending q = none) →
    CompletesInto .wav s { (s.pairsRead n).withD sop with
      y := BitVec.ofNat 16 (sop / 65536), x := BitVec.ofNat 16 sow, pc := s.npc 2,
      tmp1 := BitVec.ofNat 16 (sop / 65536), tmp2 := BitVec.ofNat 16 sop, tmp3 := BitVec.ofNat 16 sow,
      tmp2Known := true, tmp3Known := true, inputs := s.inputs.drop n, freeIdx := s.freeIdx + 4,
      ccr := { s.ccr with z := true, h := s.freeBit 0, n := s.freeBit 1, v := s.freeBit 2, c := s.freeBit 3 } } ∧
    encode .wav = [0x18, 0x3C]) ∧
  (∀ s : State,
    let r := { s.sumsRead with x := s.x - 1, y := s.y - 1 }
    let sop := s.stackedProducts + r.sumOfProducts (s.b.toNat + 1)
    let sow := s.stackedWeights + r.sumOfWeights (s.b.toNat + 1)
    (∀ q ∈ s.inputs.take s.b.toNat, q.NoReset ∧ s.interruptPending q = none) →
    CompletesInto .wavr s { (r.pairsRead (s.b.toNat + 1)).withD sop with
      y := BitVec.ofNat 16 (sop / 65536), x := BitVec.ofNat 16 sow, sp := s.sp + 6, pc := s.npc 1,
      tmp1 := BitVec.ofNat 16 (sop / 65536), tmp2 := BitVec.ofNat 16 sop, tmp3 := BitVec.ofNat 16 sow,
      tmp2Known := true, tmp3Known := true, inputs := s.inputs.drop s.b.toNat, freeIdx := s.freeIdx + 4,
      ccr := { s.ccr with z := true, h := s.freeBit 0, n := s.freeBit 1, v := s.freeBit 2, c := s.freeBit 3 } } ∧
    encode .wavr = [0x3C])

/-- WAV or wavr met by an interrupt in any pass, counted from 0, after passes without a request: the sums of the passes before
it (with, for wavr, the sums it pulled and the pending pair) and then the frame are stacked, fifteen bytes, the frame holding
the CCR with H, N, Z, V, C free, B counted down, A, the pointers past the pair read and the address of the $3C byte; the PC is
the word of the request's vector, I is 1 and X is 1 after an XIRQ (44_fuzzy_minmax_table.md R352, R353; 60_exceptions.md R506,
R508; that the vector is read before the frame is stacked is 92_eei_decisions.md D16, log 18). A reset in a pass, at its check
or after it, abandons the instruction with nothing stacked (R341, 70_reset_and_hazards.md R551; log 10). That TMP2 and TMP3 do
not count as stated in the handler, though they hold the sums, is the model's choice (log 8). -/
def Obligations.WeightedAverageInterrupted : Prop :=
  ∀ (s : State) (before : List Inputs) (q : Inputs) (rest : List Inputs), s.inputs = before ++ q :: rest →
    (∀ p ∈ before, p.NoReset ∧ s.interruptPending p = none) →
    let k := before.length
    let u := { s.sumsRead with x := s.x - 1, y := s.y - 1 }
    let w := { u with b := s.b + 1 }
    let sop := s.stackedProducts + u.sumOfProducts (k + 1)
    let sow := s.stackedWeights + u.sumOfWeights (k + 1)
    (∀ r, q.NoReset → s.interruptPending q = some r →
      (k < (if s.b = 0 then 256 else s.b.toNat) →
        WavStops .wav s s r k (s.sumOfProducts k) (s.sumOfWeights k) s.sp (s.pc + 1) rest) ∧
      (k < s.b.toNat → WavStops .wavr s w r (k + 1) sop sow (s.sp + 6) s.pc rest)) ∧
    (∀ v, q.resetVector = some v ∨ (q.resetVector = none ∧ s.interruptPending q = none ∧
        ∃ src n, q.lateReset = some (src, n) ∧ v = src.vector) →
      (k < (if s.b = 0 then 256 else s.b.toNat) → WavReset .wav s (s.pairsRead (k + 1)) v rest) ∧
      (k < s.b.toNat → WavReset .wavr s (w.pairsRead (k + 2)) v rest))

/-- The eight minimum and maximum instructions keep the larger or smaller unsigned value, in the accumulator or in memory,
where the kept value is written in both cases; the flags are those of accumulator minus memory
(44_fuzzy_minmax_table.md R355 to R362, R354). -/
def Obligations.MinimumAndMaximum : Prop :=
  ∀ (s : State) (i : Idx),
    let p := s.npc (2 + i.len); let u := i.side p s; let ea := i.ea p s; let m := u.readByte ea; let w := u.readWord ea
    let u1 := u.touch ea; let u2 := u.touchWord ea
    let d := BitVec.ofNat 16 s.dNat
    let f := s.ccr.subtracted s.a m 0; let g := s.ccr.subtracted d w 0
    CompletesInto (.maxa i) s { u1 with a := BitVec.ofNat 8 (max s.a.toNat m.toNat), ccr := f, pc := p } ∧
    CompletesInto (.mina i) s { u1 with a := BitVec.ofNat 8 (min s.a.toNat m.toNat), ccr := f, pc := p } ∧
    StoresInto (.maxm i) s { u1 with ccr := f, pc := p } ea [BitVec.ofNat 8 (max s.a.toNat m.toNat)] ∧
    StoresInto (.minm i) s { u1 with ccr := f, pc := p } ea [BitVec.ofNat 8 (min s.a.toNat m.toNat)] ∧
    CompletesInto (.emaxd i) s { u2.withD (max s.dNat w.toNat) with ccr := g, pc := p } ∧
    CompletesInto (.emind i) s { u2.withD (min s.dNat w.toNat) with ccr := g, pc := p } ∧
    StoresInto (.emaxm i) s { u2 with ccr := g, pc := p } ea (wordBE (BitVec.ofNat 16 (max s.dNat w.toNat))) ∧
    StoresInto (.eminm i) s { u2 with ccr := g, pc := p } ea (wordBE (BitVec.ofNat 16 (min s.dNat w.toNat))) ∧
    encode (.maxa i) = 0x18 :: 0x18 :: i.bytes ∧ encode (.mina i) = 0x18 :: 0x19 :: i.bytes ∧
    encode (.emaxd i) = 0x18 :: 0x1A :: i.bytes ∧ encode (.emind i) = 0x18 :: 0x1B :: i.bytes ∧
    encode (.maxm i) = 0x18 :: 0x1C :: i.bytes ∧ encode (.minm i) = 0x18 :: 0x1D :: i.bytes ∧
    encode (.emaxm i) = 0x18 :: 0x1E :: i.bytes ∧ encode (.eminm i) = 0x18 :: 0x1F :: i.bytes

/-- TBL and ETBL: the exact interpolation y1 + B (y2 - y1) / 256 rounded down, C the first bit below the radix point, N and Z
of the result, V kept; the result lies between the two entries (44_fuzzy_minmax_table.md R363, R364, R365, R366;
92_eei_decisions.md D14, log 17); their opcodes (30_encoding.md R121). -/
def Obligations.TableInterpolation : Prop :=
  ∀ (s : State) (i : Idx),
    let p := s.npc (2 + i.len); let u := i.side p s; let ea := i.ea p s
    let near := fun y1 y2 : Nat => (256 * y1 + s.b.toNat * y2 - s.b.toNat * y1)
    (let y1 := (u.readByte ea).toNat; let y2 := ((u.touch ea).readByte (ea + 1)).toNat; let r := near y1 y2 / 256
     CompletesInto (.tbl i) s { u.touchWord ea with
       a := BitVec.ofNat 8 r, pc := p,
       ccr := { s.ccr.sign (BitVec.ofNat 8 r) with c := decide (128 ≤ near y1 y2 % 256) } } ∧
     min y1 y2 ≤ r ∧ r ≤ max y1 y2) ∧
    (let y1 := (u.readWord ea).toNat; let y2 := ((u.touchWord ea).readWord (ea + 2)).toNat; let r := near y1 y2 / 256
     CompletesInto (.etbl i) s { ((u.touchWord ea).touchWord (ea + 2)).withD r with
       pc := p,
       ccr := { s.ccr.sign (BitVec.ofNat 16 r) with c := decide (128 ≤ near y1 y2 % 256) } } ∧
     min y1 y2 ≤ r ∧ r ≤ max y1 y2) ∧
    encode (.tbl i) = [0x18, 0x3D] ++ i.bytes ∧ encode (.etbl i) = [0x18, 0x3F] ++ i.bytes

/-! ### Branches and loops -/

/-- The sixteen short branches test their condition on C, Z, N, V and go to the address after them plus the signed 8-bit
offset, or to the address after them; nothing else changes (45_branch.md R384 to R401, R383). The long branches test the same
conditions, are four bytes long and carry a 16-bit offset (45_branch.md R402 to R420). -/
def Obligations.ConditionalBranches : Prop :=
  (∀ (s : State) (rr : Byte), let c := s.ccr.c; let z := s.ccr.z; let n := s.ccr.n; let v := s.ccr.v
    Branches (.bra rr) [0x20, rr] s true rr.toInt ∧ Branches (.brn rr) [0x21, rr] s false rr.toInt ∧
    Branches (.bhi rr) [0x22, rr] s (c = false ∧ z = false) rr.toInt ∧
    Branches (.bls rr) [0x23, rr] s (c = true ∨ z = true) rr.toInt ∧ Branches (.bcc rr) [0x24, rr] s (c = false) rr.toInt ∧
    Branches (.bhs rr) [0x24, rr] s (c = false) rr.toInt ∧ Branches (.bcs rr) [0x25, rr] s (c = true) rr.toInt ∧
    Branches (.blo rr) [0x25, rr] s (c = true) rr.toInt ∧ Branches (.bne rr) [0x26, rr] s (z = false) rr.toInt ∧
    Branches (.beq rr) [0x27, rr] s (z = true) rr.toInt ∧ Branches (.bvc rr) [0x28, rr] s (v = false) rr.toInt ∧
    Branches (.bvs rr) [0x29, rr] s (v = true) rr.toInt ∧ Branches (.bpl rr) [0x2A, rr] s (n = false) rr.toInt ∧
    Branches (.bmi rr) [0x2B, rr] s (n = true) rr.toInt ∧ Branches (.bge rr) [0x2C, rr] s (n = v) rr.toInt ∧
    Branches (.blt rr) [0x2D, rr] s (n ≠ v) rr.toInt ∧ Branches (.bgt rr) [0x2E, rr] s (z = false ∧ n = v) rr.toInt ∧
    Branches (.ble rr) [0x2F, rr] s (z = true ∨ n ≠ v) rr.toInt) ∧
  (∀ (s : State) (qqrr : Word), let c := s.ccr.c; let z := s.ccr.z; let n := s.ccr.n; let v := s.ccr.v; let o := qqrr.toInt
    let w := wordBE qqrr
    Branches (.lbra qqrr) (0x18 :: 0x20 :: w) s true o ∧ Branches (.lbrn qqrr) (0x18 :: 0x21 :: w) s false o ∧
    Branches (.lbhi qqrr) (0x18 :: 0x22 :: w) s (c = false ∧ z = false) o ∧
    Branches (.lbls qqrr) (0x18 :: 0x23 :: w) s (c = true ∨ z = true) o ∧
    Branches (.lbcc qqrr) (0x18 :: 0x24 :: w) s (c = false) o ∧ Branches (.lbhs qqrr) (0x18 :: 0x24 :: w) s (c = false) o ∧
    Branches (.lbcs qqrr) (0x18 :: 0x25 :: w) s (c = true) o ∧ Branches (.lblo qqrr) (0x18 :: 0x25 :: w) s (c = true) o ∧
    Branches (.lbne qqrr) (0x18 :: 0x26 :: w) s (z = false) o ∧ Branches (.lbeq qqrr) (0x18 :: 0x27 :: w) s (z = true) o ∧
    Branches (.lbvc qqrr) (0x18 :: 0x28 :: w) s (v = false) o ∧ Branches (.lbvs qqrr) (0x18 :: 0x29 :: w) s (v = true) o ∧
    Branches (.lbpl qqrr) (0x18 :: 0x2A :: w) s (n = false) o ∧ Branches (.lbmi qqrr) (0x18 :: 0x2B :: w) s (n = true) o ∧
    Branches (.lbge qqrr) (0x18 :: 0x2C :: w) s (n = v) o ∧ Branches (.lblt qqrr) (0x18 :: 0x2D :: w) s (n ≠ v) o ∧
    Branches (.lbgt qqrr) (0x18 :: 0x2E :: w) s (z = false ∧ n = v) o ∧
    Branches (.lble qqrr) (0x18 :: 0x2F :: w) s (z = true ∨ n ≠ v) o)

/-- BRSET branches when every bit of the mask is set in the byte, BRCLR when every one is clear; a mask of $00 always
branches; no flag and no memory changes (45_branch.md R421, R422, R423). The six loop primitives count their register down,
up or not at all, mod its width, and branch by the signed 9-bit offset when the count is then zero, or is not; no flag
changes (45_branch.md R424 to R430); their postbyte holds the kind, the sign of the offset and the counter (30_encoding.md
R114). -/
def Obligations.BitBranchesAndLoops : Prop :=
  (∀ (s : State) (ad : MemOp) (mm rr : Byte),
    let p := s.npc (3 + ad.len); let u := ad.side p s; let ea := ad.ea p s; let m := u.readByte ea
    let target := BitVec.ofInt 16 (p.toNat + rr.toInt)
    CompletesInto (.brset ad mm rr) s
      { u.touch ea with pc := if ∀ k : Fin 8, mm.getLsbD k = true → m.getLsbD k = true then target else p } ∧
    CompletesInto (.brclr ad mm rr) s
      { u.touch ea with pc := if ∀ k : Fin 8, mm.getLsbD k = true → m.getLsbD k = false then target else p } ∧
    EncodedMem (fun o => .brset o mm rr) 0x4E 0x1E 0x0E [mm, rr] ∧ EncodedMem (fun o => .brclr o mm rr) 0x4F 0x1F 0x0F [mm, rr]) ∧
  (∀ (s : State) (r : LoopReg) (off : BitVec 9),
    LoopsBy 0 (-1) true (.dbeq r off) s r off ∧ LoopsBy 1 (-1) false (.dbne r off) s r off ∧
    LoopsBy 2 0 true (.tbeq r off) s r off ∧ LoopsBy 3 0 false (.tbne r off) s r off ∧
    LoopsBy 4 1 true (.ibeq r off) s r off ∧ LoopsBy 5 1 false (.ibne r off) s r off)

/-! ### Jumps, calls, the stack -/

/-- JMP goes to the effective address; BSR and JSR stack the address after them below SP and go to their target, JSR's formed
before the push; RTS pulls the PC (46_jump_call_stack.md R441, R443, R444, R446; JSR with SP as base is 92_eei_decisions.md
D9, log 14). -/
def Obligations.JumpsAndCalls : Prop :=
  ∀ s : State,
    (∀ ad : ExtIdx, let p := s.npc (1 + ad.len); CompletesInto (.jmp ad) s { ad.side p s with pc := ad.ea p s }) ∧
    (∀ rr : Byte, StoresInto (.bsr rr) s
      { s with sp := s.sp - 2, pc := BitVec.ofInt 16 (s.pc.toNat + 2 + rr.toInt) } (s.sp - 2) (wordBE (s.pc + 2))) ∧
    (∀ ad : MemOp, let p := s.npc (1 + ad.len); let u := ad.side p s
      StoresInto (.jsr ad) s { u with sp := u.sp - 2, pc := ad.ea p s } (u.sp - 2) (wordBE p)) ∧
    EncodedExt .jmp 0x06 0x05 ∧ (∀ rr, encode (.bsr rr) = [0x07, rr]) ∧ EncodedMem .jsr 0x17 0x16 0x15 [] ∧
    CompletesInto .rts s { s.touchWord s.sp with sp := s.sp + 2, pc := s.readWord s.sp } ∧ encode .rts = [0x3D]

/-- CALL stacks the address after it and the old page in three bytes, selects the new page and goes to its target; the
indirect forms read target and page from memory. RTC pulls the page and then the PC, both read before the page changes
(46_jump_call_stack.md R447, R448; 92_eei_decisions.md D15, log 18); their opcodes, the page byte last and absent from the
indirect forms (30_encoding.md R120). -/
def Obligations.CallAndReturn : Prop :=
  ∀ s : State,
    (∀ (a : Word) (pg : Byte), StoresInto (.call (.ext a pg)) s
      { s with ppage := pg, sp := s.sp - 3, pc := a } (s.sp - 3) (s.ppage :: wordBE (s.npc 4))) ∧
    (∀ (i : Idx) (pg : Byte), let p := s.npc (2 + i.len); let u := i.side p s
      StoresInto (.call (.idx i pg)) s
        { u with ppage := pg, sp := u.sp - 3, pc := i.ea p s } (u.sp - 3) (s.ppage :: wordBE p)) ∧
    (∀ (r : BaseReg) (n : Word), let q := BitVec.ofInt 16 (baseNat r (s.npc 4) s + n.toInt)
      let u := s.touchWord q
      StoresInto (.call (.ind (.ind16 r n))) s
        { u.touch (q + 2) with ppage := u.readByte (q + 2), sp := s.sp - 3, pc := s.readWord q } (s.sp - 3) (s.ppage :: wordBE (s.npc 4))) ∧
    (∀ r : BaseReg, let q := BitVec.ofInt 16 (baseNat r (s.npc 2) s + s.dNat)
      let u := s.touchWord q
      StoresInto (.call (.ind (.indD r))) s
        { u.touch (q + 2) with ppage := u.readByte (q + 2), sp := s.sp - 3, pc := s.readWord q } (s.sp - 3) (s.ppage :: wordBE (s.npc 2))) ∧
    (let u := s.touch s.sp
     exec .rtc s = .next { u.touchWord (s.sp + 1) with
       ppage := s.readByte s.sp, sp := s.sp + 3, pc := u.readWord (s.sp + 1) }) ∧
    encode .rtc = [0x0A] ∧
    ∀ (a : Word) (i : Idx) (pg : Byte), encode (.call (.ext a pg)) = 0x4A :: wordBE a ++ [pg] ∧
      encode (.call (.idx i pg)) = 0x4B :: i.bytes ++ [pg] ∧ encode (.call (.ind i)) = 0x4B :: i.bytes

/-- With the stack in plain storage that the page does not move and no two of its three bytes one byte of memory, CALL and
then RTC come back to the instruction after the CALL with SP and PPAGE as they were (46_jump_call_stack.md R447, R448). -/
def Obligations.CallThenReturnRestores : Prop :=
  ∀ (s t : State) (a : Word) (pg : Byte), s.Inv → (∀ k, k < 3 → s.Stores (s.sp - 3 + BitVec.ofNat 16 k)) →
    s.Apart (s.sp - 3) 3 →
    (∀ k, k < 3 → (s.sp - 3 + BitVec.ofNat 16 k).toNat < 0x8000) → exec (.call (.ext a pg)) s = .next t →
    exec .rtc t = .next { s with mem := t.mem, pc := s.pc + 4 }

/-- The six pushes lower SP and store the register there, high byte lower (46_jump_call_stack.md R451 to R456). The six pulls
read at SP and raise it; only PULC writes the CCR, X only kept or cleared (46_jump_call_stack.md R457 to R462). That it does
not set `i_delay` is 92_eei_decisions.md D4 (log 12). -/
def Obligations.PushesAndPulls : Prop :=
  (∀ s : State, let one := { s with sp := s.sp - 1, pc := s.npc 1 }; let two := { s with sp := s.sp - 2, pc := s.npc 1 }
    StoresInto .psha s one (s.sp - 1) [s.a] ∧ StoresInto .pshb s one (s.sp - 1) [s.b] ∧
    StoresInto .pshc s one (s.sp - 1) [BitVec.ofNat 8 s.ccr.nat] ∧ StoresInto .pshd s two (s.sp - 2) [s.a, s.b] ∧
    StoresInto .pshx s two (s.sp - 2) (wordBE s.x) ∧ StoresInto .pshy s two (s.sp - 2) (wordBE s.y) ∧
    encode .psha = [0x36] ∧ encode .pshb = [0x37] ∧ encode .pshc = [0x39] ∧ encode .pshd = [0x3B] ∧ encode .pshx = [0x34] ∧
    encode .pshy = [0x35]) ∧
  (∀ s : State, let p := s.npc 1; let one := s.touch s.sp; let two := s.touchWord s.sp
    CompletesInto .pula s { one with a := s.readByte s.sp, sp := s.sp + 1, pc := p } ∧
    CompletesInto .pulb s { one with b := s.readByte s.sp, sp := s.sp + 1, pc := p } ∧
    CompletesInto .pulc s { one with ccr := s.ccr.fromData (s.readByte s.sp), sp := s.sp + 1, pc := p } ∧
    CompletesInto .puld s { two with a := s.readByte s.sp, b := one.readByte (s.sp + 1), sp := s.sp + 2, pc := p } ∧
    CompletesInto .pulx s { two with x := s.readWord s.sp, sp := s.sp + 2, pc := p } ∧
    CompletesInto .puly s { two with y := s.readWord s.sp, sp := s.sp + 2, pc := p } ∧
    encode .pula = [0x32] ∧ encode .pulb = [0x33] ∧ encode .pulc = [0x38] ∧ encode .puld = [0x3A] ∧ encode .pulx = [0x30] ∧
    encode .puly = [0x31])

/-! ### Exceptions -/

/-- SWI and TRAP take their exception: the vector's word becomes the PC, read before the nine bytes of the frame are stacked
(return address, Y, X, A, B, CCR downwards), I is set and X kept, `i_delay` is 0 (47_system.md R481, R482; 60_exceptions.md
R508; that the vector is read first is 92_eei_decisions.md D16, log 18). WAI and STOP with S = 0 stack the frame of the
address after them and wait or stop, the registers kept; STOP with S = 1 only advances the PC (47_system.md R488, R489). That
WAI and STOP leave the PC at themselves while the machine waits or is stopped is the model's choice (log 33). That TMP2 and
TMP3 do not count as stated in the handler is the model's choice (log 8). -/
def Obligations.SoftwareExceptionsAndWaits : Prop :=
  (∀ s : State,
    StoresInto .swi s (s.vectored 0xFFF6 false) (s.sp - 9) (s.frameBytes (s.pc + 1)) ∧ encode .swi = [0x3F] ∧
    ∀ tn : Byte, StoresInto (.trap tn) s (s.vectored 0xFFF8 false) (s.sp - 9) (s.frameBytes (s.pc + 2)) ∧
      encode (.trap tn) = [0x18, tn]) ∧
  (∀ s : State,
    StoresInto .wai s { s with sp := s.sp - 9, run := .wait } (s.sp - 9) (s.frameBytes (s.pc + 1)) ∧ encode .wai = [0x3E] ∧
    (s.ccr.s = false →
      StoresInto .stop s { s with sp := s.sp - 9, run := .stopped } (s.sp - 9) (s.frameBytes (s.pc + 2))) ∧
    (s.ccr.s = true → CompletesInto .stop s { s with pc := s.pc + 2 }) ∧ encode .stop = [0x18, 0x3E])

/-- At a boundary of the running machine with no reset and no tag it obeys, an enabled request is taken instead of the
instruction at the PC: the frame of that PC is stacked, the request's vector entered, I set, and X set for an XIRQ only
(60_exceptions.md R503, R506, R507, R509; that a tag goes before an interrupt is log 36). That the vector's word is read
before the frame is stacked is 92_eei_decisions.md D16 (log 18). That TMP2 and TMP3 do not count as stated in the handler is
the model's choice (log 8). -/
def Obligations.InterruptsAreTakenAtTheBoundary : Prop :=
  ∀ (s : State) (r : Request), s.run = .running → s.input.NoReset →
    (s.input.tag && s.dev.bdmEnabled) = false → s.interruptPending s.input = some r →
    let base := { s.vectored r.vector r.isXirq with inputs := s.inputs.tail }
    ∃ t, step s = .next (s.elapse t) ∧ SameButMemory base t ∧ BytesStored base t (s.sp - 9) (s.frameBytes s.pc)

/-- Which request is enabled: XIRQ whenever X is 0; else, with I = 0 and no I-clear delay, among the sources of the device that
request, the one with the highest vector address, or the promoted source if it requests, its vector being the one IRQ_SOURCES
gives it; else, or if no source of the device requests, none (00_scope.md R7, 60_exceptions.md R505, R510; 92_eei_decisions.md
D18, log 35). -/
def Obligations.RequestSelection : Prop :=
  ∀ (s : State) (q : Inputs),
    (q.xirq = true → s.ccr.x = false → s.interruptPending q = some ⟨0xFFF4, true⟩) ∧
    ((q.xirq = false ∨ s.ccr.x = true) → (s.ccr.i = true ∨ s.iDelay = true ∨ ∀ n ∈ s.dev.irqSources, n.number ∉ q.irq) →
      s.interruptPending q = none) ∧
    ((q.xirq = false ∨ s.ccr.x = true) → s.ccr.i = false → s.iDelay = false → ∀ n, s.dev.Selects (· ∈ q.irq) n →
      s.interruptPending q = some ⟨BitVec.ofNat 16 (0xFF00 + 2 * n.vector.val), false⟩)

/-- After a step that ran CLI, ANDCC or TAP and took I from 1 to 0, no I-maskable request is recognised at the next boundary;
after a step that ran one more instruction outside the transfer and ANDCC families and the rule lists, `i_delay` is 0 again
(10_state.md R36, 60_exceptions.md R504; 92_eei_decisions.md D4, log 12). -/
def Obligations.ClearingIDelaysInterrupts : Prop :=
  ∀ (s t : State) (i : Instr) (rest : List Byte), s.Quiet → decode (fetchBytes s) = .ok (i, rest) → step s = .next t →
    ((∃ ii, i = .andcc ii) ∨ i = .tfr .a .ccr → s.ccr.i = true → t.ccr.i = false →
      ∀ q : Inputs, q.xirq = false ∨ t.ccr.x = true → t.interruptPending q = none) ∧
    (writesDelay i = false → i ≠ .rev → i ≠ .revw → t.iDelay = false)

/-- RTI pulls CCR, B, A, X, Y and the return address from the nine bytes at SP, the return address before Y, X only kept or
cleared; if the restored masks
enable a request that the next boundary presents, SP goes back to the frame and its handler is entered with nothing stacked;
memory is not written (47_system.md R483, R484; the sample it looks at is log 32). -/
def Obligations.ReturnFromInterruptRestores : Prop :=
  ∀ s : State,
    let s1 := s.touch s.sp; let s2 := s1.touchWord (s.sp + 1); let s3 := s2.touchWord (s.sp + 3)
    let s4 := s3.touchWord (s.sp + 7)
    let u := { s4.touchWord (s.sp + 5) with
      ccr := s.ccr.fromData (s.readByte s.sp), b := s1.readByte (s.sp + 1), a := (s1.touch (s.sp + 1)).readByte (s.sp + 2)
      x := s2.readWord (s.sp + 3), y := s4.readWord (s.sp + 5) }
    (u.interruptPending s.input = none →
      CompletesInto .rti s { u with sp := s.sp + 9, pc := s3.readWord (s.sp + 7) }) ∧
    (∀ r, u.interruptPending s.input = some r →
      CompletesInto .rti s { u.touchWord r.vector with
        ccr := { u.ccr with i := true, x := u.ccr.x || r.isXirq }, pc := u.readWord r.vector }) ∧
    encode .rti = [0x0B]

/-- A SWI and then an RTI that finds no request, the stack in plain storage and no two of its nine bytes one byte of memory:
the registers, the CCR and SP are back as they were, and the PC is after the SWI, whatever A, B, X, Y and the flags were when
the RTI came, SP being as the entry left it (47_system.md R481, R483; 60_exceptions.md R508). That TMP2 and TMP3 then do not
count as stated is the model's choice (log 8). -/
def Obligations.SwiThenRtiRestores : Prop :=
  ∀ (s t : State) (a b : Byte) (x y : Word) (c : Ccr), s.Inv → (∀ k, k < 9 → s.Stores (s.sp - 9 + BitVec.ofNat 16 k)) →
    s.Apart (s.sp - 9) 9 →
    s.input.xirq = false → (∀ n ∈ s.dev.irqSources, n.number ∉ s.input.irq) → exec .swi s = .next t → (s.ccr.x = true → c.x = true) →
    exec .rti { t with a := a, b := b, x := x, y := y, ccr := c } =
      .next { s with
        mem := t.mem, devices := t.devices, pc := s.pc + 1, iDelay := false, run := .running, tmp2Known := false
        tmp3Known := false, ruleAhead := none }

/-- WAIT with no reset: an enabled request enters its handler with nothing stacked; with none enabled nothing changes but that
the boundary's sample is gone (60_exceptions.md R520). STOPPED with no reset: XIRQ with X = 0 enters its handler; XIRQ with X
= 1 drops the frame and goes on after the STOP; with I = 0 and no XIRQ, a requesting source of the device that STOP_WAKE lists
enters its own handler, the one of highest priority among them (the IRQ pin by default); with no such source, or I = 1, the machine stays
stopped and nothing changes (60_exceptions.md R521; I = 1 is 92_eei_decisions.md D19, log 33; the priority among several is
60_exceptions.md R510, log 35). The device registers, if there are any, see the step pass (log 30). That TMP2 and TMP3 do not
count as stated in the handler is the model's choice (log 8). -/
def Obligations.LeavingWaitAndStop : Prop :=
  (∀ s : State, s.run = .wait → s.input.NoReset →
    (∀ r, s.interruptPending s.input = some r →
      step s = .next (s.elapse { s.vectored r.vector r.isXirq with sp := s.sp, inputs := s.inputs.tail })) ∧
    (s.interruptPending s.input = none → step s = .next (s.elapse { s with inputs := s.inputs.tail }))) ∧
  (∀ s : State, s.run = .stopped → s.input.NoReset →
    (s.input.xirq = true → s.ccr.x = false →
      step s = .next (s.elapse { s.vectored 0xFFF4 true with sp := s.sp, inputs := s.inputs.tail })) ∧
    (s.input.xirq = true → s.ccr.x = true →
      step s = .next (s.elapse
        { s with sp := s.sp + 9, pc := s.readWord (s.sp + 7), run := .running, inputs := s.inputs.tail })) ∧
    (s.input.xirq = false → s.ccr.i = false → ∀ n, s.dev.Selects (fun k => k ∈ s.input.irq ∧ k ∈ s.dev.stopWake) n →
      step s = .next (s.elapse { s.vectored (BitVec.ofNat 16 (0xFF00 + 2 * n.vector.val)) false with
        sp := s.sp, inputs := s.inputs.tail })) ∧
    (s.input.xirq = false → s.ccr.i = true ∨ (∀ n ∈ s.dev.irqSources, n.number ∈ s.input.irq → n.number ∉ s.dev.stopWake) →
      step s = .next (s.elapse { s with inputs := s.inputs.tail })))

/-- BGND leaves the address after it in TMP2 and goes on there, or enters active background debug mode if BDM is enabled; a
tag at the boundary enters it with the PC in TMP2 instead of the tagged instruction; while active nothing changes but what the
BDM host changes, which can be every register, `i_delay`, any byte of memory and the devices, until the firmware returns, to
the address then in TMP2. NOP only advances the PC (47_system.md R494, R496; 60_exceptions.md R535; 92_eei_decisions.md D17,
log 34). -/
def Obligations.BackgroundModeAndNop : Prop :=
  ∀ s : State,
    (s.dev.bdmEnabled = false →
      CompletesInto .bgnd s { s.touch s.pc with tmp2 := s.pc + 1, tmp2Known := true, pc := s.pc + 1 }) ∧
    (s.dev.bdmEnabled = true →
      CompletesInto .bgnd s { s.touch s.pc with tmp2 := s.pc + 1, tmp2Known := true, run := .bdmActive }) ∧
    (s.run = .running → s.input.NoReset → s.input.tag = true → s.dev.bdmEnabled = true →
      ∃ t, step s = .next t ∧ t.tmp2 = s.pc ∧ t.run = .bdmActive ∧ t.sp = s.sp ∧ t.ccr = s.ccr ∧ t.mem = s.mem ∧
        t.a = s.a ∧ t.b = s.b ∧ t.x = s.x ∧ t.y = s.y) ∧
    (s.run = .bdmActive → s.input.NoReset → s.input.bdmExit = false → s.input.bdmWrites = [] →
      step s = .next (s.elapse { s with inputs := s.inputs.tail })) ∧
    (s.run = .bdmActive → s.input.NoReset → s.input.bdmExit = true → s.input.bdmWrites = [] →
      ∃ t, step s = .next t ∧ t.pc = s.tmp2 ∧ t.run = .running ∧ t.sp = s.sp ∧ t.mem = s.mem) ∧
    (s.run = .bdmActive → s.input.NoReset → ∀ (a b c pg v : Byte) (x y sp t1 t2 t3 : Word) (d : Bool)
      (key n : Nat),
      s.input.bdmWrites = [.a a, .b b, .x x, .y y, .sp sp, .ccr c, .tmp1 t1, .tmp2 t2, .tmp3 t3, .ppage pg, .iDelay d,
        .memory key v, .devices n] →
      let u := { s with
        a := a, b := b, x := x, y := y, sp := sp, tmp1 := t1, tmp2 := t2, tmp3 := t3, ppage := pg, iDelay := d
        ccr := { s.ccr.fromData c with x := decide (c.toNat / 64 % 2 = 1) }
        mem := s.mem.write key v, devices := n, inputs := s.inputs.tail }
      step s = .next (s.elapse (if s.input.bdmExit = true then
        { u with pc := t2, run := .running, tmp2Known := false, tmp3Known := false } else u))) ∧
    CompletesInto .nop s { s with pc := s.pc + 1 } ∧ encode .bgnd = [0x00] ∧ encode .nop = [0xA7]
end

