-- ==== Sys2Proof/Laws/Memory.lean ====
section
/-! SUPPORT. The laws of memory: the canonical form is kept, and a read after a write. -/

namespace Sys2Proof.Machine

/-- The keys rise and none is below `k`: the form the proofs go by. -/
def Memory.Above (k : Nat) : Memory → Prop
  | [] => True
  | c :: rest => k ≤ c.1 ∧ Memory.Above (c.1 + 1) rest

theorem Memory.Above.mono {j k : Nat} (h : j ≤ k) : ∀ {m : Memory}, m.Above k → m.Above j
  | [], _ => trivial
  | _ :: _, hm => ⟨Nat.le_trans h hm.1, hm.2⟩

theorem Memory.above_of_rising : ∀ (c : Host.Cell) (m : Memory), Memory.rising (c :: m) = true → m.Above (c.1 + 1)
  | _, [], _ => trivial
  | c, d :: rest, h => by
    simp only [Memory.rising, Bool.and_eq_true, decide_eq_true_eq] at h
    exact ⟨h.1, Memory.above_of_rising d rest h.2⟩

theorem Memory.above_iff_rising (m : Memory) : m.Above 0 ↔ m.rising = true := by
  constructor
  · intro h
    suffices ∀ (m : Memory) (k : Nat), m.Above k → m.rising = true from this m 0 h
    intro m
    induction m with
    | nil => intros; rfl
    | cons c rest ih =>
      intro k hm
      cases rest with
      | nil => rfl
      | cons d rest =>
        simp only [Memory.rising, Bool.and_eq_true, decide_eq_true_eq]
        exact ⟨hm.2.1, ih _ hm.2⟩
  · intro h
    cases m with
    | nil => trivial
    | cons c rest => exact ⟨Nat.zero_le _, Memory.above_of_rising c rest h⟩

theorem Memory.Above.read {m : Memory} {k j : Nat} (h : m.Above k) (hj : j < k) : m.read j = Memory.unlisted := by
  induction m generalizing k with
  | nil => rfl
  | cons c rest ih =>
    obtain ⟨a, v⟩ := c
    have ha : a ≠ j := by have := h.1; simp at this; omega
    simp only [Memory.read, if_neg ha]
    exact ih h.2 (by have := h.1; simp at this; omega)

theorem Memory.Above.write {m : Memory} {b k : Nat} (h : m.Above b) (hk : b ≤ k) (v : Byte) : (m.write k v).Above b := by
  induction m generalizing b with
  | nil => simp only [Memory.write]; split <;> simp [Memory.Above, hk]
  | cons c rest ih =>
    obtain ⟨a, w⟩ := c
    have h1 := h.1; have h2 := h.2; simp only at h1 h2
    simp only [Memory.write]
    split
    · split
      · exact h
      · exact ⟨hk, ⟨by simp; omega, h2⟩⟩
    · split
      · split
        · exact h2.mono (by omega)
        · subst k; exact ⟨h1, h2⟩
      · exact ⟨h1, ih h2 (by omega)⟩

theorem Memory.Above.read_write {m : Memory} {b k : Nat} (h : m.Above b) (v : Byte) (j : Nat) :
    (m.write k v).read j = if j = k then v else m.read j := by
  induction m generalizing b with
  | nil =>
    simp only [Memory.write]
    split
    · next hv => simp [Memory.read, hv]
    · simp [Memory.read, eq_comm]
  | cons c rest ih =>
    obtain ⟨a, w⟩ := c
    have h2 := h.2; simp only at h2
    simp only [Memory.write]
    split
    · next hk =>
      have hr : Memory.read ((a, w) :: rest) k = Memory.unlisted := by
        simp only [Memory.read, if_neg (show a ≠ k by omega)]; exact Memory.Above.read h2 (by omega)
      split
      · next hv =>
        by_cases hj : j = k
        · subst hj; simp [hr, hv]
        · simp [hj]
      · simp only [Memory.read, eq_comm]
    · split
      · next hk hka =>
        subst hka
        have hr : Memory.read rest k = Memory.unlisted := Memory.Above.read h2 (by omega)
        split
        · next hv =>
          by_cases hj : j = k
          · subst hj; simp [hr, hv]
          · simp [Memory.read, hj, Ne.symm hj]
        · by_cases hj : j = k
          · subst hj; simp [Memory.read]
          · simp [Memory.read, hj, Ne.symm hj]
      · next hk hka =>
        simp only [Memory.read]
        by_cases haj : a = j
        · subst haj; simp [Ne.symm hka]
        · simp only [if_neg haj]; exact ih h2

theorem Memory.listed_write {m : Memory} {k : Nat} {v : Byte}
    (h : m.all (fun c => c.2 != Memory.unlisted) = true) :
    (m.write k v).all (fun c => c.2 != Memory.unlisted) = true := by
  induction m with
  | nil => simp only [Memory.write]; split <;> simp_all
  | cons c rest ih =>
    obtain ⟨a, w⟩ := c
    simp only [List.all_cons, Bool.and_eq_true] at h
    simp only [Memory.write]
    split
    · split
      · simp [h.1, h.2]
      · next hv => simp only [List.all_cons, Bool.and_eq_true]; exact ⟨by simpa using hv, h.1, h.2⟩
    · split
      · split
        · exact h.2
        · next hv => simp only [List.all_cons, Bool.and_eq_true]; exact ⟨by simpa using hv, h.2⟩
      · simp only [List.all_cons, Bool.and_eq_true]; exact ⟨h.1, ih h.2⟩

/-- A write keeps the canonical form. -/
theorem Memory.wf_write {m : Memory} (k : Nat) (v : Byte) (h : m.wf = true) : (m.write k v).wf = true := by
  simp only [Memory.wf, Bool.and_eq_true] at h ⊢
  exact ⟨(Memory.above_iff_rising _).1 (((Memory.above_iff_rising m).2 h.1).write (Nat.zero_le k) v), Memory.listed_write h.2⟩

/-- A read after a write, in canonical memory. -/
theorem Memory.read_write {m : Memory} (h : m.wf = true) (k j : Nat) (v : Byte) :
    (m.write k v).read j = if j = k then v else m.read j := by
  simp only [Memory.wf, Bool.and_eq_true] at h
  exact ((Memory.above_iff_rising m).2 h.1).read_write v j

/-- The memory of the reset state is canonical. -/
theorem reset_inv : State.reset.Inv := ⟨rfl, rfl⟩

end Sys2Proof.Machine
end

