-- ==== Sys2Proof/Laws/State.lean ====
section
/-! SUPPORT. One lemma per field per update of the state, true by `rfl`, so that no later proof unfolds a record update. -/

namespace Sys2Proof.Machine

@[simp] theorem State.setD_a (s : State) (v : Word) : (s.setD v).a = hiByte v := rfl
@[simp] theorem State.setD_b (s : State) (v : Word) : (s.setD v).b = loByte v := rfl
@[simp] theorem State.setD_x (s : State) (v : Word) : (s.setD v).x = s.x := rfl
@[simp] theorem State.setD_y (s : State) (v : Word) : (s.setD v).y = s.y := rfl
@[simp] theorem State.setD_sp (s : State) (v : Word) : (s.setD v).sp = s.sp := rfl
@[simp] theorem State.setD_pc (s : State) (v : Word) : (s.setD v).pc = s.pc := rfl
@[simp] theorem State.setD_ccr (s : State) (v : Word) : (s.setD v).ccr = s.ccr := rfl
@[simp] theorem State.setD_tmp1 (s : State) (v : Word) : (s.setD v).tmp1 = s.tmp1 := rfl
@[simp] theorem State.setD_tmp2 (s : State) (v : Word) : (s.setD v).tmp2 = s.tmp2 := rfl
@[simp] theorem State.setD_tmp3 (s : State) (v : Word) : (s.setD v).tmp3 = s.tmp3 := rfl
@[simp] theorem State.setD_ppage (s : State) (v : Word) : (s.setD v).ppage = s.ppage := rfl
@[simp] theorem State.setD_iDelay (s : State) (v : Word) : (s.setD v).iDelay = s.iDelay := rfl
@[simp] theorem State.setD_ruleAhead (s : State) (v : Word) : (s.setD v).ruleAhead = s.ruleAhead := rfl
@[simp] theorem State.setD_run (s : State) (v : Word) : (s.setD v).run = s.run := rfl
@[simp] theorem State.setD_mem (s : State) (v : Word) : (s.setD v).mem = s.mem := rfl
@[simp] theorem State.setD_devices (s : State) (v : Word) : (s.setD v).devices = s.devices := rfl
@[simp] theorem State.setD_dev (s : State) (v : Word) : (s.setD v).dev = s.dev := rfl
@[simp] theorem State.setD_inputs (s : State) (v : Word) : (s.setD v).inputs = s.inputs := rfl
@[simp] theorem State.setD_tmp2Known (s : State) (v : Word) : (s.setD v).tmp2Known = s.tmp2Known := rfl
@[simp] theorem State.setD_tmp3Known (s : State) (v : Word) : (s.setD v).tmp3Known = s.tmp3Known := rfl
@[simp] theorem State.setD_freeIdx (s : State) (v : Word) : (s.setD v).freeIdx = s.freeIdx := rfl
@[simp] theorem State.setD_writeLimit (s : State) (v : Word) : (s.setD v).writeLimit = s.writeLimit := rfl

@[simp] theorem State.writeCcr_a (s : State) (v : Byte) : (s.writeCcr v).a = s.a := rfl
@[simp] theorem State.writeCcr_b (s : State) (v : Byte) : (s.writeCcr v).b = s.b := rfl
@[simp] theorem State.writeCcr_x (s : State) (v : Byte) : (s.writeCcr v).x = s.x := rfl
@[simp] theorem State.writeCcr_y (s : State) (v : Byte) : (s.writeCcr v).y = s.y := rfl
@[simp] theorem State.writeCcr_sp (s : State) (v : Byte) : (s.writeCcr v).sp = s.sp := rfl
@[simp] theorem State.writeCcr_pc (s : State) (v : Byte) : (s.writeCcr v).pc = s.pc := rfl
@[simp] theorem State.writeCcr_ccr (s : State) (v : Byte) : (s.writeCcr v).ccr = s.ccr.write v := rfl
@[simp] theorem State.writeCcr_tmp1 (s : State) (v : Byte) : (s.writeCcr v).tmp1 = s.tmp1 := rfl
@[simp] theorem State.writeCcr_tmp2 (s : State) (v : Byte) : (s.writeCcr v).tmp2 = s.tmp2 := rfl
@[simp] theorem State.writeCcr_tmp3 (s : State) (v : Byte) : (s.writeCcr v).tmp3 = s.tmp3 := rfl
@[simp] theorem State.writeCcr_ppage (s : State) (v : Byte) : (s.writeCcr v).ppage = s.ppage := rfl
@[simp] theorem State.writeCcr_iDelay (s : State) (v : Byte) : (s.writeCcr v).iDelay = s.iDelay := rfl
@[simp] theorem State.writeCcr_ruleAhead (s : State) (v : Byte) : (s.writeCcr v).ruleAhead = s.ruleAhead := rfl
@[simp] theorem State.writeCcr_run (s : State) (v : Byte) : (s.writeCcr v).run = s.run := rfl
@[simp] theorem State.writeCcr_mem (s : State) (v : Byte) : (s.writeCcr v).mem = s.mem := rfl
@[simp] theorem State.writeCcr_devices (s : State) (v : Byte) : (s.writeCcr v).devices = s.devices := rfl
@[simp] theorem State.writeCcr_dev (s : State) (v : Byte) : (s.writeCcr v).dev = s.dev := rfl
@[simp] theorem State.writeCcr_inputs (s : State) (v : Byte) : (s.writeCcr v).inputs = s.inputs := rfl
@[simp] theorem State.writeCcr_tmp2Known (s : State) (v : Byte) : (s.writeCcr v).tmp2Known = s.tmp2Known := rfl
@[simp] theorem State.writeCcr_tmp3Known (s : State) (v : Byte) : (s.writeCcr v).tmp3Known = s.tmp3Known := rfl
@[simp] theorem State.writeCcr_freeIdx (s : State) (v : Byte) : (s.writeCcr v).freeIdx = s.freeIdx := rfl
@[simp] theorem State.writeCcr_writeLimit (s : State) (v : Byte) : (s.writeCcr v).writeLimit = s.writeLimit := rfl

@[simp] theorem State.touch_a (s : State) (p : Word) : (s.touch p).a = s.a := rfl
@[simp] theorem State.touch_b (s : State) (p : Word) : (s.touch p).b = s.b := rfl
@[simp] theorem State.touch_x (s : State) (p : Word) : (s.touch p).x = s.x := rfl
@[simp] theorem State.touch_y (s : State) (p : Word) : (s.touch p).y = s.y := rfl
@[simp] theorem State.touch_sp (s : State) (p : Word) : (s.touch p).sp = s.sp := rfl
@[simp] theorem State.touch_pc (s : State) (p : Word) : (s.touch p).pc = s.pc := rfl
@[simp] theorem State.touch_ccr (s : State) (p : Word) : (s.touch p).ccr = s.ccr := rfl
@[simp] theorem State.touch_tmp1 (s : State) (p : Word) : (s.touch p).tmp1 = s.tmp1 := rfl
@[simp] theorem State.touch_tmp2 (s : State) (p : Word) : (s.touch p).tmp2 = s.tmp2 := rfl
@[simp] theorem State.touch_tmp3 (s : State) (p : Word) : (s.touch p).tmp3 = s.tmp3 := rfl
@[simp] theorem State.touch_ppage (s : State) (p : Word) : (s.touch p).ppage = s.ppage := rfl
@[simp] theorem State.touch_iDelay (s : State) (p : Word) : (s.touch p).iDelay = s.iDelay := rfl
@[simp] theorem State.touch_ruleAhead (s : State) (p : Word) : (s.touch p).ruleAhead = s.ruleAhead := rfl
@[simp] theorem State.touch_run (s : State) (p : Word) : (s.touch p).run = s.run := rfl
@[simp] theorem State.touch_mem (s : State) (p : Word) : (s.touch p).mem = s.mem := rfl
@[simp] theorem State.touch_devices (s : State) (p : Word) : (s.touch p).devices = s.afterRead p := rfl
@[simp] theorem State.touch_dev (s : State) (p : Word) : (s.touch p).dev = s.dev := rfl
@[simp] theorem State.touch_inputs (s : State) (p : Word) : (s.touch p).inputs = s.inputs := rfl
@[simp] theorem State.touch_tmp2Known (s : State) (p : Word) : (s.touch p).tmp2Known = s.tmp2Known := rfl
@[simp] theorem State.touch_tmp3Known (s : State) (p : Word) : (s.touch p).tmp3Known = s.tmp3Known := rfl
@[simp] theorem State.touch_freeIdx (s : State) (p : Word) : (s.touch p).freeIdx = s.freeIdx := rfl
@[simp] theorem State.touch_writeLimit (s : State) (p : Word) : (s.touch p).writeLimit = s.writeLimit := rfl

@[simp] theorem State.touchWord_a (s : State) (p : Word) : (s.touchWord p).a = s.a := rfl
@[simp] theorem State.touchWord_b (s : State) (p : Word) : (s.touchWord p).b = s.b := rfl
@[simp] theorem State.touchWord_x (s : State) (p : Word) : (s.touchWord p).x = s.x := rfl
@[simp] theorem State.touchWord_y (s : State) (p : Word) : (s.touchWord p).y = s.y := rfl
@[simp] theorem State.touchWord_sp (s : State) (p : Word) : (s.touchWord p).sp = s.sp := rfl
@[simp] theorem State.touchWord_pc (s : State) (p : Word) : (s.touchWord p).pc = s.pc := rfl
@[simp] theorem State.touchWord_ccr (s : State) (p : Word) : (s.touchWord p).ccr = s.ccr := rfl
@[simp] theorem State.touchWord_tmp1 (s : State) (p : Word) : (s.touchWord p).tmp1 = s.tmp1 := rfl
@[simp] theorem State.touchWord_tmp2 (s : State) (p : Word) : (s.touchWord p).tmp2 = s.tmp2 := rfl
@[simp] theorem State.touchWord_tmp3 (s : State) (p : Word) : (s.touchWord p).tmp3 = s.tmp3 := rfl
@[simp] theorem State.touchWord_ppage (s : State) (p : Word) : (s.touchWord p).ppage = s.ppage := rfl
@[simp] theorem State.touchWord_iDelay (s : State) (p : Word) : (s.touchWord p).iDelay = s.iDelay := rfl
@[simp] theorem State.touchWord_ruleAhead (s : State) (p : Word) : (s.touchWord p).ruleAhead = s.ruleAhead := rfl
@[simp] theorem State.touchWord_run (s : State) (p : Word) : (s.touchWord p).run = s.run := rfl
@[simp] theorem State.touchWord_mem (s : State) (p : Word) : (s.touchWord p).mem = s.mem := rfl
@[simp] theorem State.touchWord_devices (s : State) (p : Word) : (s.touchWord p).devices = (s.touch p).afterRead (p + 1) := rfl
@[simp] theorem State.touchWord_dev (s : State) (p : Word) : (s.touchWord p).dev = s.dev := rfl
@[simp] theorem State.touchWord_inputs (s : State) (p : Word) : (s.touchWord p).inputs = s.inputs := rfl
@[simp] theorem State.touchWord_tmp2Known (s : State) (p : Word) : (s.touchWord p).tmp2Known = s.tmp2Known := rfl
@[simp] theorem State.touchWord_tmp3Known (s : State) (p : Word) : (s.touchWord p).tmp3Known = s.tmp3Known := rfl
@[simp] theorem State.touchWord_freeIdx (s : State) (p : Word) : (s.touchWord p).freeIdx = s.freeIdx := rfl
@[simp] theorem State.touchWord_writeLimit (s : State) (p : Word) : (s.touchWord p).writeLimit = s.writeLimit := rfl

@[simp] theorem State.touchLong_a (s : State) (p : Word) : (s.touchLong p).a = s.a := by simp [State.touchLong]
@[simp] theorem State.touchLong_b (s : State) (p : Word) : (s.touchLong p).b = s.b := by simp [State.touchLong]
@[simp] theorem State.touchLong_x (s : State) (p : Word) : (s.touchLong p).x = s.x := by simp [State.touchLong]
@[simp] theorem State.touchLong_y (s : State) (p : Word) : (s.touchLong p).y = s.y := by simp [State.touchLong]
@[simp] theorem State.touchLong_sp (s : State) (p : Word) : (s.touchLong p).sp = s.sp := by simp [State.touchLong]
@[simp] theorem State.touchLong_pc (s : State) (p : Word) : (s.touchLong p).pc = s.pc := by simp [State.touchLong]
@[simp] theorem State.touchLong_ccr (s : State) (p : Word) : (s.touchLong p).ccr = s.ccr := by simp [State.touchLong]
@[simp] theorem State.touchLong_tmp1 (s : State) (p : Word) : (s.touchLong p).tmp1 = s.tmp1 := by simp [State.touchLong]
@[simp] theorem State.touchLong_tmp2 (s : State) (p : Word) : (s.touchLong p).tmp2 = s.tmp2 := by simp [State.touchLong]
@[simp] theorem State.touchLong_tmp3 (s : State) (p : Word) : (s.touchLong p).tmp3 = s.tmp3 := by simp [State.touchLong]
@[simp] theorem State.touchLong_ppage (s : State) (p : Word) : (s.touchLong p).ppage = s.ppage := by simp [State.touchLong]
@[simp] theorem State.touchLong_iDelay (s : State) (p : Word) : (s.touchLong p).iDelay = s.iDelay := by simp [State.touchLong]
@[simp] theorem State.touchLong_ruleAhead (s : State) (p : Word) : (s.touchLong p).ruleAhead = s.ruleAhead := by simp [State.touchLong]
@[simp] theorem State.touchLong_run (s : State) (p : Word) : (s.touchLong p).run = s.run := by simp [State.touchLong]
@[simp] theorem State.touchLong_mem (s : State) (p : Word) : (s.touchLong p).mem = s.mem := by simp [State.touchLong]
@[simp] theorem State.touchLong_dev (s : State) (p : Word) : (s.touchLong p).dev = s.dev := by simp [State.touchLong]
@[simp] theorem State.touchLong_inputs (s : State) (p : Word) : (s.touchLong p).inputs = s.inputs := by simp [State.touchLong]
@[simp] theorem State.touchLong_tmp2Known (s : State) (p : Word) : (s.touchLong p).tmp2Known = s.tmp2Known := by simp [State.touchLong]
@[simp] theorem State.touchLong_tmp3Known (s : State) (p : Word) : (s.touchLong p).tmp3Known = s.tmp3Known := by simp [State.touchLong]
@[simp] theorem State.touchLong_freeIdx (s : State) (p : Word) : (s.touchLong p).freeIdx = s.freeIdx := by simp [State.touchLong]
@[simp] theorem State.touchLong_writeLimit (s : State) (p : Word) : (s.touchLong p).writeLimit = s.writeLimit := by simp [State.touchLong]

@[simp] theorem State.pulled8_a (s : State) : (s.pulled8).a = s.a := rfl
@[simp] theorem State.pulled8_b (s : State) : (s.pulled8).b = s.b := rfl
@[simp] theorem State.pulled8_x (s : State) : (s.pulled8).x = s.x := rfl
@[simp] theorem State.pulled8_y (s : State) : (s.pulled8).y = s.y := rfl
@[simp] theorem State.pulled8_sp (s : State) : (s.pulled8).sp = s.sp + 1 := rfl
@[simp] theorem State.pulled8_pc (s : State) : (s.pulled8).pc = s.pc := rfl
@[simp] theorem State.pulled8_ccr (s : State) : (s.pulled8).ccr = s.ccr := rfl
@[simp] theorem State.pulled8_tmp1 (s : State) : (s.pulled8).tmp1 = s.tmp1 := rfl
@[simp] theorem State.pulled8_tmp2 (s : State) : (s.pulled8).tmp2 = s.tmp2 := rfl
@[simp] theorem State.pulled8_tmp3 (s : State) : (s.pulled8).tmp3 = s.tmp3 := rfl
@[simp] theorem State.pulled8_ppage (s : State) : (s.pulled8).ppage = s.ppage := rfl
@[simp] theorem State.pulled8_iDelay (s : State) : (s.pulled8).iDelay = s.iDelay := rfl
@[simp] theorem State.pulled8_ruleAhead (s : State) : (s.pulled8).ruleAhead = s.ruleAhead := rfl
@[simp] theorem State.pulled8_run (s : State) : (s.pulled8).run = s.run := rfl
@[simp] theorem State.pulled8_mem (s : State) : (s.pulled8).mem = s.mem := rfl
@[simp] theorem State.pulled8_devices (s : State) : (s.pulled8).devices = s.afterRead s.sp := rfl
@[simp] theorem State.pulled8_dev (s : State) : (s.pulled8).dev = s.dev := rfl
@[simp] theorem State.pulled8_inputs (s : State) : (s.pulled8).inputs = s.inputs := rfl
@[simp] theorem State.pulled8_tmp2Known (s : State) : (s.pulled8).tmp2Known = s.tmp2Known := rfl
@[simp] theorem State.pulled8_tmp3Known (s : State) : (s.pulled8).tmp3Known = s.tmp3Known := rfl
@[simp] theorem State.pulled8_freeIdx (s : State) : (s.pulled8).freeIdx = s.freeIdx := rfl
@[simp] theorem State.pulled8_writeLimit (s : State) : (s.pulled8).writeLimit = s.writeLimit := rfl

@[simp] theorem State.pulled16_a (s : State) : (s.pulled16).a = s.a := rfl
@[simp] theorem State.pulled16_b (s : State) : (s.pulled16).b = s.b := rfl
@[simp] theorem State.pulled16_x (s : State) : (s.pulled16).x = s.x := rfl
@[simp] theorem State.pulled16_y (s : State) : (s.pulled16).y = s.y := rfl
@[simp] theorem State.pulled16_sp (s : State) : (s.pulled16).sp = s.sp + 2 := rfl
@[simp] theorem State.pulled16_pc (s : State) : (s.pulled16).pc = s.pc := rfl
@[simp] theorem State.pulled16_ccr (s : State) : (s.pulled16).ccr = s.ccr := rfl
@[simp] theorem State.pulled16_tmp1 (s : State) : (s.pulled16).tmp1 = s.tmp1 := rfl
@[simp] theorem State.pulled16_tmp2 (s : State) : (s.pulled16).tmp2 = s.tmp2 := rfl
@[simp] theorem State.pulled16_tmp3 (s : State) : (s.pulled16).tmp3 = s.tmp3 := rfl
@[simp] theorem State.pulled16_ppage (s : State) : (s.pulled16).ppage = s.ppage := rfl
@[simp] theorem State.pulled16_iDelay (s : State) : (s.pulled16).iDelay = s.iDelay := rfl
@[simp] theorem State.pulled16_ruleAhead (s : State) : (s.pulled16).ruleAhead = s.ruleAhead := rfl
@[simp] theorem State.pulled16_run (s : State) : (s.pulled16).run = s.run := rfl
@[simp] theorem State.pulled16_mem (s : State) : (s.pulled16).mem = s.mem := rfl
@[simp] theorem State.pulled16_devices (s : State) : (s.pulled16).devices = (s.touchWord s.sp).devices := rfl
@[simp] theorem State.pulled16_dev (s : State) : (s.pulled16).dev = s.dev := rfl
@[simp] theorem State.pulled16_inputs (s : State) : (s.pulled16).inputs = s.inputs := rfl
@[simp] theorem State.pulled16_tmp2Known (s : State) : (s.pulled16).tmp2Known = s.tmp2Known := rfl
@[simp] theorem State.pulled16_tmp3Known (s : State) : (s.pulled16).tmp3Known = s.tmp3Known := rfl
@[simp] theorem State.pulled16_freeIdx (s : State) : (s.pulled16).freeIdx = s.freeIdx := rfl
@[simp] theorem State.pulled16_writeLimit (s : State) : (s.pulled16).writeLimit = s.writeLimit := rfl

@[simp] theorem State.byteAhead_a (s : State) : (s.byteAhead).a = s.a := rfl
@[simp] theorem State.byteAhead_b (s : State) : (s.byteAhead).b = s.b := rfl
@[simp] theorem State.byteAhead_x (s : State) : (s.byteAhead).x = s.x := rfl
@[simp] theorem State.byteAhead_y (s : State) : (s.byteAhead).y = s.y := rfl
@[simp] theorem State.byteAhead_sp (s : State) : (s.byteAhead).sp = s.sp := rfl
@[simp] theorem State.byteAhead_pc (s : State) : (s.byteAhead).pc = s.pc := rfl
@[simp] theorem State.byteAhead_ccr (s : State) : (s.byteAhead).ccr = s.ccr := rfl
@[simp] theorem State.byteAhead_tmp1 (s : State) : (s.byteAhead).tmp1 = s.tmp1 := rfl
@[simp] theorem State.byteAhead_tmp2 (s : State) : (s.byteAhead).tmp2 = s.tmp2 := rfl
@[simp] theorem State.byteAhead_tmp3 (s : State) : (s.byteAhead).tmp3 = s.tmp3 := rfl
@[simp] theorem State.byteAhead_ppage (s : State) : (s.byteAhead).ppage = s.ppage := rfl
@[simp] theorem State.byteAhead_iDelay (s : State) : (s.byteAhead).iDelay = s.iDelay := rfl
@[simp] theorem State.byteAhead_ruleAhead (s : State) : (s.byteAhead).ruleAhead = some (zext8 (s.readByte s.x)) := rfl
@[simp] theorem State.byteAhead_run (s : State) : (s.byteAhead).run = s.run := rfl
@[simp] theorem State.byteAhead_mem (s : State) : (s.byteAhead).mem = s.mem := rfl
@[simp] theorem State.byteAhead_devices (s : State) : (s.byteAhead).devices = s.afterRead s.x := rfl
@[simp] theorem State.byteAhead_dev (s : State) : (s.byteAhead).dev = s.dev := rfl
@[simp] theorem State.byteAhead_inputs (s : State) : (s.byteAhead).inputs = s.inputs := rfl
@[simp] theorem State.byteAhead_tmp2Known (s : State) : (s.byteAhead).tmp2Known = s.tmp2Known := rfl
@[simp] theorem State.byteAhead_tmp3Known (s : State) : (s.byteAhead).tmp3Known = s.tmp3Known := rfl
@[simp] theorem State.byteAhead_freeIdx (s : State) : (s.byteAhead).freeIdx = s.freeIdx := rfl
@[simp] theorem State.byteAhead_writeLimit (s : State) : (s.byteAhead).writeLimit = s.writeLimit := rfl

@[simp] theorem State.wordAhead_a (s : State) : (s.wordAhead).a = s.a := rfl
@[simp] theorem State.wordAhead_b (s : State) : (s.wordAhead).b = s.b := rfl
@[simp] theorem State.wordAhead_x (s : State) : (s.wordAhead).x = s.x := rfl
@[simp] theorem State.wordAhead_y (s : State) : (s.wordAhead).y = s.y := rfl
@[simp] theorem State.wordAhead_sp (s : State) : (s.wordAhead).sp = s.sp := rfl
@[simp] theorem State.wordAhead_pc (s : State) : (s.wordAhead).pc = s.pc := rfl
@[simp] theorem State.wordAhead_ccr (s : State) : (s.wordAhead).ccr = s.ccr := rfl
@[simp] theorem State.wordAhead_tmp1 (s : State) : (s.wordAhead).tmp1 = s.tmp1 := rfl
@[simp] theorem State.wordAhead_tmp2 (s : State) : (s.wordAhead).tmp2 = s.tmp2 := rfl
@[simp] theorem State.wordAhead_tmp3 (s : State) : (s.wordAhead).tmp3 = s.tmp3 := rfl
@[simp] theorem State.wordAhead_ppage (s : State) : (s.wordAhead).ppage = s.ppage := rfl
@[simp] theorem State.wordAhead_iDelay (s : State) : (s.wordAhead).iDelay = s.iDelay := rfl
@[simp] theorem State.wordAhead_ruleAhead (s : State) : (s.wordAhead).ruleAhead = some (s.readWord s.x) := rfl
@[simp] theorem State.wordAhead_run (s : State) : (s.wordAhead).run = s.run := rfl
@[simp] theorem State.wordAhead_mem (s : State) : (s.wordAhead).mem = s.mem := rfl
@[simp] theorem State.wordAhead_devices (s : State) : (s.wordAhead).devices = (s.touchWord s.x).devices := rfl
@[simp] theorem State.wordAhead_dev (s : State) : (s.wordAhead).dev = s.dev := rfl
@[simp] theorem State.wordAhead_inputs (s : State) : (s.wordAhead).inputs = s.inputs := rfl
@[simp] theorem State.wordAhead_tmp2Known (s : State) : (s.wordAhead).tmp2Known = s.tmp2Known := rfl
@[simp] theorem State.wordAhead_tmp3Known (s : State) : (s.wordAhead).tmp3Known = s.tmp3Known := rfl
@[simp] theorem State.wordAhead_freeIdx (s : State) : (s.wordAhead).freeIdx = s.freeIdx := rfl
@[simp] theorem State.wordAhead_writeLimit (s : State) : (s.wordAhead).writeLimit = s.writeLimit := rfl

@[simp] theorem State.freeHnzvc_a (s : State) : (s.freeHnzvc).a = s.a := rfl
@[simp] theorem State.freeHnzvc_b (s : State) : (s.freeHnzvc).b = s.b := rfl
@[simp] theorem State.freeHnzvc_x (s : State) : (s.freeHnzvc).x = s.x := rfl
@[simp] theorem State.freeHnzvc_y (s : State) : (s.freeHnzvc).y = s.y := rfl
@[simp] theorem State.freeHnzvc_sp (s : State) : (s.freeHnzvc).sp = s.sp := rfl
@[simp] theorem State.freeHnzvc_pc (s : State) : (s.freeHnzvc).pc = s.pc := rfl
@[simp] theorem State.freeHnzvc_ccr (s : State) : (s.freeHnzvc).ccr = { s.ccr with h := s.freeBit 0, n := s.freeBit 1, z := s.freeBit 2, v := s.freeBit 3, c := s.freeBit 4 } := rfl
@[simp] theorem State.freeHnzvc_tmp1 (s : State) : (s.freeHnzvc).tmp1 = s.tmp1 := rfl
@[simp] theorem State.freeHnzvc_tmp2 (s : State) : (s.freeHnzvc).tmp2 = s.tmp2 := rfl
@[simp] theorem State.freeHnzvc_tmp3 (s : State) : (s.freeHnzvc).tmp3 = s.tmp3 := rfl
@[simp] theorem State.freeHnzvc_ppage (s : State) : (s.freeHnzvc).ppage = s.ppage := rfl
@[simp] theorem State.freeHnzvc_iDelay (s : State) : (s.freeHnzvc).iDelay = s.iDelay := rfl
@[simp] theorem State.freeHnzvc_ruleAhead (s : State) : (s.freeHnzvc).ruleAhead = s.ruleAhead := rfl
@[simp] theorem State.freeHnzvc_run (s : State) : (s.freeHnzvc).run = s.run := rfl
@[simp] theorem State.freeHnzvc_mem (s : State) : (s.freeHnzvc).mem = s.mem := rfl
@[simp] theorem State.freeHnzvc_devices (s : State) : (s.freeHnzvc).devices = s.devices := rfl
@[simp] theorem State.freeHnzvc_dev (s : State) : (s.freeHnzvc).dev = s.dev := rfl
@[simp] theorem State.freeHnzvc_inputs (s : State) : (s.freeHnzvc).inputs = s.inputs := rfl
@[simp] theorem State.freeHnzvc_tmp2Known (s : State) : (s.freeHnzvc).tmp2Known = s.tmp2Known := rfl
@[simp] theorem State.freeHnzvc_tmp3Known (s : State) : (s.freeHnzvc).tmp3Known = s.tmp3Known := rfl
@[simp] theorem State.freeHnzvc_freeIdx (s : State) : (s.freeHnzvc).freeIdx = s.freeIdx + 5 := rfl
@[simp] theorem State.freeHnzvc_writeLimit (s : State) : (s.freeHnzvc).writeLimit = s.writeLimit := rfl

@[simp] theorem State.freeHnzc_a (s : State) : (s.freeHnzc).a = s.a := rfl
@[simp] theorem State.freeHnzc_b (s : State) : (s.freeHnzc).b = s.b := rfl
@[simp] theorem State.freeHnzc_x (s : State) : (s.freeHnzc).x = s.x := rfl
@[simp] theorem State.freeHnzc_y (s : State) : (s.freeHnzc).y = s.y := rfl
@[simp] theorem State.freeHnzc_sp (s : State) : (s.freeHnzc).sp = s.sp := rfl
@[simp] theorem State.freeHnzc_pc (s : State) : (s.freeHnzc).pc = s.pc := rfl
@[simp] theorem State.freeHnzc_ccr (s : State) : (s.freeHnzc).ccr = { s.ccr with h := s.freeBit 0, n := s.freeBit 1, z := s.freeBit 2, c := s.freeBit 3 } := rfl
@[simp] theorem State.freeHnzc_tmp1 (s : State) : (s.freeHnzc).tmp1 = s.tmp1 := rfl
@[simp] theorem State.freeHnzc_tmp2 (s : State) : (s.freeHnzc).tmp2 = s.tmp2 := rfl
@[simp] theorem State.freeHnzc_tmp3 (s : State) : (s.freeHnzc).tmp3 = s.tmp3 := rfl
@[simp] theorem State.freeHnzc_ppage (s : State) : (s.freeHnzc).ppage = s.ppage := rfl
@[simp] theorem State.freeHnzc_iDelay (s : State) : (s.freeHnzc).iDelay = s.iDelay := rfl
@[simp] theorem State.freeHnzc_ruleAhead (s : State) : (s.freeHnzc).ruleAhead = s.ruleAhead := rfl
@[simp] theorem State.freeHnzc_run (s : State) : (s.freeHnzc).run = s.run := rfl
@[simp] theorem State.freeHnzc_mem (s : State) : (s.freeHnzc).mem = s.mem := rfl
@[simp] theorem State.freeHnzc_devices (s : State) : (s.freeHnzc).devices = s.devices := rfl
@[simp] theorem State.freeHnzc_dev (s : State) : (s.freeHnzc).dev = s.dev := rfl
@[simp] theorem State.freeHnzc_inputs (s : State) : (s.freeHnzc).inputs = s.inputs := rfl
@[simp] theorem State.freeHnzc_tmp2Known (s : State) : (s.freeHnzc).tmp2Known = s.tmp2Known := rfl
@[simp] theorem State.freeHnzc_tmp3Known (s : State) : (s.freeHnzc).tmp3Known = s.tmp3Known := rfl
@[simp] theorem State.freeHnzc_freeIdx (s : State) : (s.freeHnzc).freeIdx = s.freeIdx + 4 := rfl
@[simp] theorem State.freeHnzc_writeLimit (s : State) : (s.freeHnzc).writeLimit = s.writeLimit := rfl

@[simp] theorem State.freeHnz_a (s : State) : (s.freeHnz).a = s.a := rfl
@[simp] theorem State.freeHnz_b (s : State) : (s.freeHnz).b = s.b := rfl
@[simp] theorem State.freeHnz_x (s : State) : (s.freeHnz).x = s.x := rfl
@[simp] theorem State.freeHnz_y (s : State) : (s.freeHnz).y = s.y := rfl
@[simp] theorem State.freeHnz_sp (s : State) : (s.freeHnz).sp = s.sp := rfl
@[simp] theorem State.freeHnz_pc (s : State) : (s.freeHnz).pc = s.pc := rfl
@[simp] theorem State.freeHnz_ccr (s : State) : (s.freeHnz).ccr = { s.ccr with h := s.freeBit 0, n := s.freeBit 1, z := s.freeBit 2 } := rfl
@[simp] theorem State.freeHnz_tmp1 (s : State) : (s.freeHnz).tmp1 = s.tmp1 := rfl
@[simp] theorem State.freeHnz_tmp2 (s : State) : (s.freeHnz).tmp2 = s.tmp2 := rfl
@[simp] theorem State.freeHnz_tmp3 (s : State) : (s.freeHnz).tmp3 = s.tmp3 := rfl
@[simp] theorem State.freeHnz_ppage (s : State) : (s.freeHnz).ppage = s.ppage := rfl
@[simp] theorem State.freeHnz_iDelay (s : State) : (s.freeHnz).iDelay = s.iDelay := rfl
@[simp] theorem State.freeHnz_ruleAhead (s : State) : (s.freeHnz).ruleAhead = s.ruleAhead := rfl
@[simp] theorem State.freeHnz_run (s : State) : (s.freeHnz).run = s.run := rfl
@[simp] theorem State.freeHnz_mem (s : State) : (s.freeHnz).mem = s.mem := rfl
@[simp] theorem State.freeHnz_devices (s : State) : (s.freeHnz).devices = s.devices := rfl
@[simp] theorem State.freeHnz_dev (s : State) : (s.freeHnz).dev = s.dev := rfl
@[simp] theorem State.freeHnz_inputs (s : State) : (s.freeHnz).inputs = s.inputs := rfl
@[simp] theorem State.freeHnz_tmp2Known (s : State) : (s.freeHnz).tmp2Known = s.tmp2Known := rfl
@[simp] theorem State.freeHnz_tmp3Known (s : State) : (s.freeHnz).tmp3Known = s.tmp3Known := rfl
@[simp] theorem State.freeHnz_freeIdx (s : State) : (s.freeHnz).freeIdx = s.freeIdx + 3 := rfl
@[simp] theorem State.freeHnz_writeLimit (s : State) : (s.freeHnz).writeLimit = s.writeLimit := rfl

@[simp] theorem State.pairTaken_a (s : State) : (s.pairTaken).a = s.a := rfl
@[simp] theorem State.pairTaken_b (s : State) : (s.pairTaken).b = s.b - 1 := rfl
@[simp] theorem State.pairTaken_x (s : State) : (s.pairTaken).x = s.x + 1 := rfl
@[simp] theorem State.pairTaken_y (s : State) : (s.pairTaken).y = s.y + 1 := rfl
@[simp] theorem State.pairTaken_sp (s : State) : (s.pairTaken).sp = s.sp := rfl
@[simp] theorem State.pairTaken_pc (s : State) : (s.pairTaken).pc = s.pc := rfl
@[simp] theorem State.pairTaken_ccr (s : State) : (s.pairTaken).ccr = s.ccr := rfl
@[simp] theorem State.pairTaken_tmp1 (s : State) : (s.pairTaken).tmp1 = s.tmp1 := rfl
@[simp] theorem State.pairTaken_tmp2 (s : State) : (s.pairTaken).tmp2 = s.tmp2 := rfl
@[simp] theorem State.pairTaken_tmp3 (s : State) : (s.pairTaken).tmp3 = s.tmp3 := rfl
@[simp] theorem State.pairTaken_ppage (s : State) : (s.pairTaken).ppage = s.ppage := rfl
@[simp] theorem State.pairTaken_iDelay (s : State) : (s.pairTaken).iDelay = s.iDelay := rfl
@[simp] theorem State.pairTaken_ruleAhead (s : State) : (s.pairTaken).ruleAhead = s.ruleAhead := rfl
@[simp] theorem State.pairTaken_run (s : State) : (s.pairTaken).run = s.run := rfl
@[simp] theorem State.pairTaken_mem (s : State) : (s.pairTaken).mem = s.mem := rfl
@[simp] theorem State.pairTaken_devices (s : State) : (s.pairTaken).devices = (s.touch s.y).afterRead s.x := rfl
@[simp] theorem State.pairTaken_dev (s : State) : (s.pairTaken).dev = s.dev := rfl
@[simp] theorem State.pairTaken_inputs (s : State) : (s.pairTaken).inputs = s.inputs := rfl
@[simp] theorem State.pairTaken_tmp2Known (s : State) : (s.pairTaken).tmp2Known = s.tmp2Known := rfl
@[simp] theorem State.pairTaken_tmp3Known (s : State) : (s.pairTaken).tmp3Known = s.tmp3Known := rfl
@[simp] theorem State.pairTaken_freeIdx (s : State) : (s.pairTaken).freeIdx = s.freeIdx := rfl
@[simp] theorem State.pairTaken_writeLimit (s : State) : (s.pairTaken).writeLimit = s.writeLimit := rfl

@[simp] theorem State.pullSums_a (s : State) : (s.pullSums).a = s.a := by simp [State.pullSums]
@[simp] theorem State.pullSums_b (s : State) : (s.pullSums).b = s.b := by simp [State.pullSums]
@[simp] theorem State.pullSums_x (s : State) : (s.pullSums).x = s.x := by simp [State.pullSums]
@[simp] theorem State.pullSums_y (s : State) : (s.pullSums).y = s.y := by simp [State.pullSums]
@[simp] theorem State.pullSums_sp (s : State) : (s.pullSums).sp = s.sp + 2 + 2 + 2 := by simp [State.pullSums]
@[simp] theorem State.pullSums_pc (s : State) : (s.pullSums).pc = s.pc := by simp [State.pullSums]
@[simp] theorem State.pullSums_ccr (s : State) : (s.pullSums).ccr = s.ccr := by simp [State.pullSums]
@[simp] theorem State.pullSums_tmp1 (s : State) : (s.pullSums).tmp1 = s.top16 := by simp [State.pullSums]
@[simp] theorem State.pullSums_tmp2 (s : State) : (s.pullSums).tmp2 = s.pulled16.top16 := by simp [State.pullSums]
@[simp] theorem State.pullSums_tmp3 (s : State) : (s.pullSums).tmp3 = s.pulled16.pulled16.top16 := by simp [State.pullSums]
@[simp] theorem State.pullSums_ppage (s : State) : (s.pullSums).ppage = s.ppage := by simp [State.pullSums]
@[simp] theorem State.pullSums_iDelay (s : State) : (s.pullSums).iDelay = s.iDelay := by simp [State.pullSums]
@[simp] theorem State.pullSums_ruleAhead (s : State) : (s.pullSums).ruleAhead = s.ruleAhead := by simp [State.pullSums]
@[simp] theorem State.pullSums_run (s : State) : (s.pullSums).run = s.run := by simp [State.pullSums]
@[simp] theorem State.pullSums_mem (s : State) : (s.pullSums).mem = s.mem := by simp [State.pullSums]
@[simp] theorem State.pullSums_dev (s : State) : (s.pullSums).dev = s.dev := by simp [State.pullSums]
@[simp] theorem State.pullSums_inputs (s : State) : (s.pullSums).inputs = s.inputs := by simp [State.pullSums]
@[simp] theorem State.pullSums_tmp2Known (s : State) : (s.pullSums).tmp2Known = s.tmp2Known := by simp [State.pullSums]
@[simp] theorem State.pullSums_tmp3Known (s : State) : (s.pullSums).tmp3Known = s.tmp3Known := by simp [State.pullSums]
@[simp] theorem State.pullSums_freeIdx (s : State) : (s.pullSums).freeIdx = s.freeIdx := by simp [State.pullSums]
@[simp] theorem State.pullSums_writeLimit (s : State) : (s.pullSums).writeLimit = s.writeLimit := by simp [State.pullSums]

@[simp] theorem State.drew_a (s : State) (n : Nat) : (s.drew n).a = s.a := rfl
@[simp] theorem State.drew_b (s : State) (n : Nat) : (s.drew n).b = s.b := rfl
@[simp] theorem State.drew_x (s : State) (n : Nat) : (s.drew n).x = s.x := rfl
@[simp] theorem State.drew_y (s : State) (n : Nat) : (s.drew n).y = s.y := rfl
@[simp] theorem State.drew_sp (s : State) (n : Nat) : (s.drew n).sp = s.sp := rfl
@[simp] theorem State.drew_pc (s : State) (n : Nat) : (s.drew n).pc = s.pc := rfl
@[simp] theorem State.drew_ccr (s : State) (n : Nat) : (s.drew n).ccr = s.ccr := rfl
@[simp] theorem State.drew_tmp1 (s : State) (n : Nat) : (s.drew n).tmp1 = s.tmp1 := rfl
@[simp] theorem State.drew_tmp2 (s : State) (n : Nat) : (s.drew n).tmp2 = s.tmp2 := rfl
@[simp] theorem State.drew_tmp3 (s : State) (n : Nat) : (s.drew n).tmp3 = s.tmp3 := rfl
@[simp] theorem State.drew_ppage (s : State) (n : Nat) : (s.drew n).ppage = s.ppage := rfl
@[simp] theorem State.drew_iDelay (s : State) (n : Nat) : (s.drew n).iDelay = s.iDelay := rfl
@[simp] theorem State.drew_ruleAhead (s : State) (n : Nat) : (s.drew n).ruleAhead = s.ruleAhead := rfl
@[simp] theorem State.drew_run (s : State) (n : Nat) : (s.drew n).run = s.run := rfl
@[simp] theorem State.drew_mem (s : State) (n : Nat) : (s.drew n).mem = s.mem := rfl
@[simp] theorem State.drew_devices (s : State) (n : Nat) : (s.drew n).devices = s.devices := rfl
@[simp] theorem State.drew_dev (s : State) (n : Nat) : (s.drew n).dev = s.dev := rfl
@[simp] theorem State.drew_inputs (s : State) (n : Nat) : (s.drew n).inputs = s.inputs := rfl
@[simp] theorem State.drew_tmp2Known (s : State) (n : Nat) : (s.drew n).tmp2Known = s.tmp2Known := rfl
@[simp] theorem State.drew_tmp3Known (s : State) (n : Nat) : (s.drew n).tmp3Known = s.tmp3Known := rfl
@[simp] theorem State.drew_freeIdx (s : State) (n : Nat) : (s.drew n).freeIdx = s.freeIdx + n := rfl
@[simp] theorem State.drew_writeLimit (s : State) (n : Nat) : (s.drew n).writeLimit = s.writeLimit := rfl

@[simp] theorem State.popInput_a (s : State) : (s.popInput).a = s.a := rfl
@[simp] theorem State.popInput_b (s : State) : (s.popInput).b = s.b := rfl
@[simp] theorem State.popInput_x (s : State) : (s.popInput).x = s.x := rfl
@[simp] theorem State.popInput_y (s : State) : (s.popInput).y = s.y := rfl
@[simp] theorem State.popInput_sp (s : State) : (s.popInput).sp = s.sp := rfl
@[simp] theorem State.popInput_pc (s : State) : (s.popInput).pc = s.pc := rfl
@[simp] theorem State.popInput_ccr (s : State) : (s.popInput).ccr = s.ccr := rfl
@[simp] theorem State.popInput_tmp1 (s : State) : (s.popInput).tmp1 = s.tmp1 := rfl
@[simp] theorem State.popInput_tmp2 (s : State) : (s.popInput).tmp2 = s.tmp2 := rfl
@[simp] theorem State.popInput_tmp3 (s : State) : (s.popInput).tmp3 = s.tmp3 := rfl
@[simp] theorem State.popInput_ppage (s : State) : (s.popInput).ppage = s.ppage := rfl
@[simp] theorem State.popInput_iDelay (s : State) : (s.popInput).iDelay = s.iDelay := rfl
@[simp] theorem State.popInput_ruleAhead (s : State) : (s.popInput).ruleAhead = s.ruleAhead := rfl
@[simp] theorem State.popInput_run (s : State) : (s.popInput).run = s.run := rfl
@[simp] theorem State.popInput_mem (s : State) : (s.popInput).mem = s.mem := rfl
@[simp] theorem State.popInput_devices (s : State) : (s.popInput).devices = s.devices := rfl
@[simp] theorem State.popInput_dev (s : State) : (s.popInput).dev = s.dev := rfl
@[simp] theorem State.popInput_inputs (s : State) : (s.popInput).inputs = s.inputs.tail := rfl
@[simp] theorem State.popInput_tmp2Known (s : State) : (s.popInput).tmp2Known = s.tmp2Known := rfl
@[simp] theorem State.popInput_tmp3Known (s : State) : (s.popInput).tmp3Known = s.tmp3Known := rfl
@[simp] theorem State.popInput_freeIdx (s : State) : (s.popInput).freeIdx = s.freeIdx := rfl
@[simp] theorem State.popInput_writeLimit (s : State) : (s.popInput).writeLimit = s.writeLimit := rfl

@[simp] theorem State.forgetTmp_a (s : State) : (s.forgetTmp).a = s.a := rfl
@[simp] theorem State.forgetTmp_b (s : State) : (s.forgetTmp).b = s.b := rfl
@[simp] theorem State.forgetTmp_x (s : State) : (s.forgetTmp).x = s.x := rfl
@[simp] theorem State.forgetTmp_y (s : State) : (s.forgetTmp).y = s.y := rfl
@[simp] theorem State.forgetTmp_sp (s : State) : (s.forgetTmp).sp = s.sp := rfl
@[simp] theorem State.forgetTmp_pc (s : State) : (s.forgetTmp).pc = s.pc := rfl
@[simp] theorem State.forgetTmp_ccr (s : State) : (s.forgetTmp).ccr = s.ccr := rfl
@[simp] theorem State.forgetTmp_tmp1 (s : State) : (s.forgetTmp).tmp1 = s.tmp1 := rfl
@[simp] theorem State.forgetTmp_tmp2 (s : State) : (s.forgetTmp).tmp2 = s.tmp2 := rfl
@[simp] theorem State.forgetTmp_tmp3 (s : State) : (s.forgetTmp).tmp3 = s.tmp3 := rfl
@[simp] theorem State.forgetTmp_ppage (s : State) : (s.forgetTmp).ppage = s.ppage := rfl
@[simp] theorem State.forgetTmp_iDelay (s : State) : (s.forgetTmp).iDelay = s.iDelay := rfl
@[simp] theorem State.forgetTmp_ruleAhead (s : State) : (s.forgetTmp).ruleAhead = s.ruleAhead := rfl
@[simp] theorem State.forgetTmp_run (s : State) : (s.forgetTmp).run = s.run := rfl
@[simp] theorem State.forgetTmp_mem (s : State) : (s.forgetTmp).mem = s.mem := rfl
@[simp] theorem State.forgetTmp_devices (s : State) : (s.forgetTmp).devices = s.devices := rfl
@[simp] theorem State.forgetTmp_dev (s : State) : (s.forgetTmp).dev = s.dev := rfl
@[simp] theorem State.forgetTmp_inputs (s : State) : (s.forgetTmp).inputs = s.inputs := rfl
@[simp] theorem State.forgetTmp_tmp2Known (s : State) : (s.forgetTmp).tmp2Known = false := rfl
@[simp] theorem State.forgetTmp_tmp3Known (s : State) : (s.forgetTmp).tmp3Known = false := rfl
@[simp] theorem State.forgetTmp_freeIdx (s : State) : (s.forgetTmp).freeIdx = s.freeIdx := rfl
@[simp] theorem State.forgetTmp_writeLimit (s : State) : (s.forgetTmp).writeLimit = s.writeLimit := rfl

@[simp] theorem State.nzv0_a (s : State) {w : Nat} (v : BitVec w) : (s.nzv0 v).a = s.a := rfl
@[simp] theorem State.nzv0_b (s : State) {w : Nat} (v : BitVec w) : (s.nzv0 v).b = s.b := rfl
@[simp] theorem State.nzv0_x (s : State) {w : Nat} (v : BitVec w) : (s.nzv0 v).x = s.x := rfl
@[simp] theorem State.nzv0_y (s : State) {w : Nat} (v : BitVec w) : (s.nzv0 v).y = s.y := rfl
@[simp] theorem State.nzv0_sp (s : State) {w : Nat} (v : BitVec w) : (s.nzv0 v).sp = s.sp := rfl
@[simp] theorem State.nzv0_pc (s : State) {w : Nat} (v : BitVec w) : (s.nzv0 v).pc = s.pc := rfl
@[simp] theorem State.nzv0_ccr (s : State) {w : Nat} (v : BitVec w) : (s.nzv0 v).ccr = s.ccr.nzv0 v := rfl
@[simp] theorem State.nzv0_tmp1 (s : State) {w : Nat} (v : BitVec w) : (s.nzv0 v).tmp1 = s.tmp1 := rfl
@[simp] theorem State.nzv0_tmp2 (s : State) {w : Nat} (v : BitVec w) : (s.nzv0 v).tmp2 = s.tmp2 := rfl
@[simp] theorem State.nzv0_tmp3 (s : State) {w : Nat} (v : BitVec w) : (s.nzv0 v).tmp3 = s.tmp3 := rfl
@[simp] theorem State.nzv0_ppage (s : State) {w : Nat} (v : BitVec w) : (s.nzv0 v).ppage = s.ppage := rfl
@[simp] theorem State.nzv0_iDelay (s : State) {w : Nat} (v : BitVec w) : (s.nzv0 v).iDelay = s.iDelay := rfl
@[simp] theorem State.nzv0_ruleAhead (s : State) {w : Nat} (v : BitVec w) : (s.nzv0 v).ruleAhead = s.ruleAhead := rfl
@[simp] theorem State.nzv0_run (s : State) {w : Nat} (v : BitVec w) : (s.nzv0 v).run = s.run := rfl
@[simp] theorem State.nzv0_mem (s : State) {w : Nat} (v : BitVec w) : (s.nzv0 v).mem = s.mem := rfl
@[simp] theorem State.nzv0_devices (s : State) {w : Nat} (v : BitVec w) : (s.nzv0 v).devices = s.devices := rfl
@[simp] theorem State.nzv0_dev (s : State) {w : Nat} (v : BitVec w) : (s.nzv0 v).dev = s.dev := rfl
@[simp] theorem State.nzv0_inputs (s : State) {w : Nat} (v : BitVec w) : (s.nzv0 v).inputs = s.inputs := rfl
@[simp] theorem State.nzv0_tmp2Known (s : State) {w : Nat} (v : BitVec w) : (s.nzv0 v).tmp2Known = s.tmp2Known := rfl
@[simp] theorem State.nzv0_tmp3Known (s : State) {w : Nat} (v : BitVec w) : (s.nzv0 v).tmp3Known = s.tmp3Known := rfl
@[simp] theorem State.nzv0_freeIdx (s : State) {w : Nat} (v : BitVec w) : (s.nzv0 v).freeIdx = s.freeIdx := rfl
@[simp] theorem State.nzv0_writeLimit (s : State) {w : Nat} (v : BitVec w) : (s.nzv0 v).writeLimit = s.writeLimit := rfl

@[simp] theorem State.hnzvc_a (s : State) {w : Nat} (r : Alu w) : (s.hnzvc r).a = s.a := rfl
@[simp] theorem State.hnzvc_b (s : State) {w : Nat} (r : Alu w) : (s.hnzvc r).b = s.b := rfl
@[simp] theorem State.hnzvc_x (s : State) {w : Nat} (r : Alu w) : (s.hnzvc r).x = s.x := rfl
@[simp] theorem State.hnzvc_y (s : State) {w : Nat} (r : Alu w) : (s.hnzvc r).y = s.y := rfl
@[simp] theorem State.hnzvc_sp (s : State) {w : Nat} (r : Alu w) : (s.hnzvc r).sp = s.sp := rfl
@[simp] theorem State.hnzvc_pc (s : State) {w : Nat} (r : Alu w) : (s.hnzvc r).pc = s.pc := rfl
@[simp] theorem State.hnzvc_ccr (s : State) {w : Nat} (r : Alu w) : (s.hnzvc r).ccr = s.ccr.hnzvc r := rfl
@[simp] theorem State.hnzvc_tmp1 (s : State) {w : Nat} (r : Alu w) : (s.hnzvc r).tmp1 = s.tmp1 := rfl
@[simp] theorem State.hnzvc_tmp2 (s : State) {w : Nat} (r : Alu w) : (s.hnzvc r).tmp2 = s.tmp2 := rfl
@[simp] theorem State.hnzvc_tmp3 (s : State) {w : Nat} (r : Alu w) : (s.hnzvc r).tmp3 = s.tmp3 := rfl
@[simp] theorem State.hnzvc_ppage (s : State) {w : Nat} (r : Alu w) : (s.hnzvc r).ppage = s.ppage := rfl
@[simp] theorem State.hnzvc_iDelay (s : State) {w : Nat} (r : Alu w) : (s.hnzvc r).iDelay = s.iDelay := rfl
@[simp] theorem State.hnzvc_ruleAhead (s : State) {w : Nat} (r : Alu w) : (s.hnzvc r).ruleAhead = s.ruleAhead := rfl
@[simp] theorem State.hnzvc_run (s : State) {w : Nat} (r : Alu w) : (s.hnzvc r).run = s.run := rfl
@[simp] theorem State.hnzvc_mem (s : State) {w : Nat} (r : Alu w) : (s.hnzvc r).mem = s.mem := rfl
@[simp] theorem State.hnzvc_devices (s : State) {w : Nat} (r : Alu w) : (s.hnzvc r).devices = s.devices := rfl
@[simp] theorem State.hnzvc_dev (s : State) {w : Nat} (r : Alu w) : (s.hnzvc r).dev = s.dev := rfl
@[simp] theorem State.hnzvc_inputs (s : State) {w : Nat} (r : Alu w) : (s.hnzvc r).inputs = s.inputs := rfl
@[simp] theorem State.hnzvc_tmp2Known (s : State) {w : Nat} (r : Alu w) : (s.hnzvc r).tmp2Known = s.tmp2Known := rfl
@[simp] theorem State.hnzvc_tmp3Known (s : State) {w : Nat} (r : Alu w) : (s.hnzvc r).tmp3Known = s.tmp3Known := rfl
@[simp] theorem State.hnzvc_freeIdx (s : State) {w : Nat} (r : Alu w) : (s.hnzvc r).freeIdx = s.freeIdx := rfl
@[simp] theorem State.hnzvc_writeLimit (s : State) {w : Nat} (r : Alu w) : (s.hnzvc r).writeLimit = s.writeLimit := rfl

@[simp] theorem State.nzvc_a (s : State) {w : Nat} (r : Alu w) : (s.nzvc r).a = s.a := rfl
@[simp] theorem State.nzvc_b (s : State) {w : Nat} (r : Alu w) : (s.nzvc r).b = s.b := rfl
@[simp] theorem State.nzvc_x (s : State) {w : Nat} (r : Alu w) : (s.nzvc r).x = s.x := rfl
@[simp] theorem State.nzvc_y (s : State) {w : Nat} (r : Alu w) : (s.nzvc r).y = s.y := rfl
@[simp] theorem State.nzvc_sp (s : State) {w : Nat} (r : Alu w) : (s.nzvc r).sp = s.sp := rfl
@[simp] theorem State.nzvc_pc (s : State) {w : Nat} (r : Alu w) : (s.nzvc r).pc = s.pc := rfl
@[simp] theorem State.nzvc_ccr (s : State) {w : Nat} (r : Alu w) : (s.nzvc r).ccr = s.ccr.nzvc r := rfl
@[simp] theorem State.nzvc_tmp1 (s : State) {w : Nat} (r : Alu w) : (s.nzvc r).tmp1 = s.tmp1 := rfl
@[simp] theorem State.nzvc_tmp2 (s : State) {w : Nat} (r : Alu w) : (s.nzvc r).tmp2 = s.tmp2 := rfl
@[simp] theorem State.nzvc_tmp3 (s : State) {w : Nat} (r : Alu w) : (s.nzvc r).tmp3 = s.tmp3 := rfl
@[simp] theorem State.nzvc_ppage (s : State) {w : Nat} (r : Alu w) : (s.nzvc r).ppage = s.ppage := rfl
@[simp] theorem State.nzvc_iDelay (s : State) {w : Nat} (r : Alu w) : (s.nzvc r).iDelay = s.iDelay := rfl
@[simp] theorem State.nzvc_ruleAhead (s : State) {w : Nat} (r : Alu w) : (s.nzvc r).ruleAhead = s.ruleAhead := rfl
@[simp] theorem State.nzvc_run (s : State) {w : Nat} (r : Alu w) : (s.nzvc r).run = s.run := rfl
@[simp] theorem State.nzvc_mem (s : State) {w : Nat} (r : Alu w) : (s.nzvc r).mem = s.mem := rfl
@[simp] theorem State.nzvc_devices (s : State) {w : Nat} (r : Alu w) : (s.nzvc r).devices = s.devices := rfl
@[simp] theorem State.nzvc_dev (s : State) {w : Nat} (r : Alu w) : (s.nzvc r).dev = s.dev := rfl
@[simp] theorem State.nzvc_inputs (s : State) {w : Nat} (r : Alu w) : (s.nzvc r).inputs = s.inputs := rfl
@[simp] theorem State.nzvc_tmp2Known (s : State) {w : Nat} (r : Alu w) : (s.nzvc r).tmp2Known = s.tmp2Known := rfl
@[simp] theorem State.nzvc_tmp3Known (s : State) {w : Nat} (r : Alu w) : (s.nzvc r).tmp3Known = s.tmp3Known := rfl
@[simp] theorem State.nzvc_freeIdx (s : State) {w : Nat} (r : Alu w) : (s.nzvc r).freeIdx = s.freeIdx := rfl
@[simp] theorem State.nzvc_writeLimit (s : State) {w : Nat} (r : Alu w) : (s.nzvc r).writeLimit = s.writeLimit := rfl

@[simp] theorem State.setNzvc_a (s : State) (n z v c : Bool) : (s.setNzvc n z v c).a = s.a := rfl
@[simp] theorem State.setNzvc_b (s : State) (n z v c : Bool) : (s.setNzvc n z v c).b = s.b := rfl
@[simp] theorem State.setNzvc_x (s : State) (n z v c : Bool) : (s.setNzvc n z v c).x = s.x := rfl
@[simp] theorem State.setNzvc_y (s : State) (n z v c : Bool) : (s.setNzvc n z v c).y = s.y := rfl
@[simp] theorem State.setNzvc_sp (s : State) (n z v c : Bool) : (s.setNzvc n z v c).sp = s.sp := rfl
@[simp] theorem State.setNzvc_pc (s : State) (n z v c : Bool) : (s.setNzvc n z v c).pc = s.pc := rfl
@[simp] theorem State.setNzvc_ccr (s : State) (n z v c : Bool) : (s.setNzvc n z v c).ccr = s.ccr.setNzvc n z v c := rfl
@[simp] theorem State.setNzvc_tmp1 (s : State) (n z v c : Bool) : (s.setNzvc n z v c).tmp1 = s.tmp1 := rfl
@[simp] theorem State.setNzvc_tmp2 (s : State) (n z v c : Bool) : (s.setNzvc n z v c).tmp2 = s.tmp2 := rfl
@[simp] theorem State.setNzvc_tmp3 (s : State) (n z v c : Bool) : (s.setNzvc n z v c).tmp3 = s.tmp3 := rfl
@[simp] theorem State.setNzvc_ppage (s : State) (n z v c : Bool) : (s.setNzvc n z v c).ppage = s.ppage := rfl
@[simp] theorem State.setNzvc_iDelay (s : State) (n z v c : Bool) : (s.setNzvc n z v c).iDelay = s.iDelay := rfl
@[simp] theorem State.setNzvc_ruleAhead (s : State) (n z v c : Bool) : (s.setNzvc n z v c).ruleAhead = s.ruleAhead := rfl
@[simp] theorem State.setNzvc_run (s : State) (n z v c : Bool) : (s.setNzvc n z v c).run = s.run := rfl
@[simp] theorem State.setNzvc_mem (s : State) (n z v c : Bool) : (s.setNzvc n z v c).mem = s.mem := rfl
@[simp] theorem State.setNzvc_devices (s : State) (n z v c : Bool) : (s.setNzvc n z v c).devices = s.devices := rfl
@[simp] theorem State.setNzvc_dev (s : State) (n z v c : Bool) : (s.setNzvc n z v c).dev = s.dev := rfl
@[simp] theorem State.setNzvc_inputs (s : State) (n z v c : Bool) : (s.setNzvc n z v c).inputs = s.inputs := rfl
@[simp] theorem State.setNzvc_tmp2Known (s : State) (n z v c : Bool) : (s.setNzvc n z v c).tmp2Known = s.tmp2Known := rfl
@[simp] theorem State.setNzvc_tmp3Known (s : State) (n z v c : Bool) : (s.setNzvc n z v c).tmp3Known = s.tmp3Known := rfl
@[simp] theorem State.setNzvc_freeIdx (s : State) (n z v c : Bool) : (s.setNzvc n z v c).freeIdx = s.freeIdx := rfl
@[simp] theorem State.setNzvc_writeLimit (s : State) (n z v c : Bool) : (s.setNzvc n z v c).writeLimit = s.writeLimit := rfl

@[simp] theorem State.nzv_a (s : State) {w : Nat} (r : BitVec w) (v : Bool) : (s.nzv r v).a = s.a := rfl
@[simp] theorem State.nzv_b (s : State) {w : Nat} (r : BitVec w) (v : Bool) : (s.nzv r v).b = s.b := rfl
@[simp] theorem State.nzv_x (s : State) {w : Nat} (r : BitVec w) (v : Bool) : (s.nzv r v).x = s.x := rfl
@[simp] theorem State.nzv_y (s : State) {w : Nat} (r : BitVec w) (v : Bool) : (s.nzv r v).y = s.y := rfl
@[simp] theorem State.nzv_sp (s : State) {w : Nat} (r : BitVec w) (v : Bool) : (s.nzv r v).sp = s.sp := rfl
@[simp] theorem State.nzv_pc (s : State) {w : Nat} (r : BitVec w) (v : Bool) : (s.nzv r v).pc = s.pc := rfl
@[simp] theorem State.nzv_ccr (s : State) {w : Nat} (r : BitVec w) (v : Bool) : (s.nzv r v).ccr = { s.ccr.nz r with v := v } := rfl
@[simp] theorem State.nzv_tmp1 (s : State) {w : Nat} (r : BitVec w) (v : Bool) : (s.nzv r v).tmp1 = s.tmp1 := rfl
@[simp] theorem State.nzv_tmp2 (s : State) {w : Nat} (r : BitVec w) (v : Bool) : (s.nzv r v).tmp2 = s.tmp2 := rfl
@[simp] theorem State.nzv_tmp3 (s : State) {w : Nat} (r : BitVec w) (v : Bool) : (s.nzv r v).tmp3 = s.tmp3 := rfl
@[simp] theorem State.nzv_ppage (s : State) {w : Nat} (r : BitVec w) (v : Bool) : (s.nzv r v).ppage = s.ppage := rfl
@[simp] theorem State.nzv_iDelay (s : State) {w : Nat} (r : BitVec w) (v : Bool) : (s.nzv r v).iDelay = s.iDelay := rfl
@[simp] theorem State.nzv_ruleAhead (s : State) {w : Nat} (r : BitVec w) (v : Bool) : (s.nzv r v).ruleAhead = s.ruleAhead := rfl
@[simp] theorem State.nzv_run (s : State) {w : Nat} (r : BitVec w) (v : Bool) : (s.nzv r v).run = s.run := rfl
@[simp] theorem State.nzv_mem (s : State) {w : Nat} (r : BitVec w) (v : Bool) : (s.nzv r v).mem = s.mem := rfl
@[simp] theorem State.nzv_devices (s : State) {w : Nat} (r : BitVec w) (v : Bool) : (s.nzv r v).devices = s.devices := rfl
@[simp] theorem State.nzv_dev (s : State) {w : Nat} (r : BitVec w) (v : Bool) : (s.nzv r v).dev = s.dev := rfl
@[simp] theorem State.nzv_inputs (s : State) {w : Nat} (r : BitVec w) (v : Bool) : (s.nzv r v).inputs = s.inputs := rfl
@[simp] theorem State.nzv_tmp2Known (s : State) {w : Nat} (r : BitVec w) (v : Bool) : (s.nzv r v).tmp2Known = s.tmp2Known := rfl
@[simp] theorem State.nzv_tmp3Known (s : State) {w : Nat} (r : BitVec w) (v : Bool) : (s.nzv r v).tmp3Known = s.tmp3Known := rfl
@[simp] theorem State.nzv_freeIdx (s : State) {w : Nat} (r : BitVec w) (v : Bool) : (s.nzv r v).freeIdx = s.freeIdx := rfl
@[simp] theorem State.nzv_writeLimit (s : State) {w : Nat} (r : BitVec w) (v : Bool) : (s.nzv r v).writeLimit = s.writeLimit := rfl

@[simp] theorem State.zOnly_a (s : State) (r : Word) : (s.zOnly r).a = s.a := rfl
@[simp] theorem State.zOnly_b (s : State) (r : Word) : (s.zOnly r).b = s.b := rfl
@[simp] theorem State.zOnly_x (s : State) (r : Word) : (s.zOnly r).x = s.x := rfl
@[simp] theorem State.zOnly_y (s : State) (r : Word) : (s.zOnly r).y = s.y := rfl
@[simp] theorem State.zOnly_sp (s : State) (r : Word) : (s.zOnly r).sp = s.sp := rfl
@[simp] theorem State.zOnly_pc (s : State) (r : Word) : (s.zOnly r).pc = s.pc := rfl
@[simp] theorem State.zOnly_ccr (s : State) (r : Word) : (s.zOnly r).ccr = { s.ccr with z := r == 0 } := rfl
@[simp] theorem State.zOnly_tmp1 (s : State) (r : Word) : (s.zOnly r).tmp1 = s.tmp1 := rfl
@[simp] theorem State.zOnly_tmp2 (s : State) (r : Word) : (s.zOnly r).tmp2 = s.tmp2 := rfl
@[simp] theorem State.zOnly_tmp3 (s : State) (r : Word) : (s.zOnly r).tmp3 = s.tmp3 := rfl
@[simp] theorem State.zOnly_ppage (s : State) (r : Word) : (s.zOnly r).ppage = s.ppage := rfl
@[simp] theorem State.zOnly_iDelay (s : State) (r : Word) : (s.zOnly r).iDelay = s.iDelay := rfl
@[simp] theorem State.zOnly_ruleAhead (s : State) (r : Word) : (s.zOnly r).ruleAhead = s.ruleAhead := rfl
@[simp] theorem State.zOnly_run (s : State) (r : Word) : (s.zOnly r).run = s.run := rfl
@[simp] theorem State.zOnly_mem (s : State) (r : Word) : (s.zOnly r).mem = s.mem := rfl
@[simp] theorem State.zOnly_devices (s : State) (r : Word) : (s.zOnly r).devices = s.devices := rfl
@[simp] theorem State.zOnly_dev (s : State) (r : Word) : (s.zOnly r).dev = s.dev := rfl
@[simp] theorem State.zOnly_inputs (s : State) (r : Word) : (s.zOnly r).inputs = s.inputs := rfl
@[simp] theorem State.zOnly_tmp2Known (s : State) (r : Word) : (s.zOnly r).tmp2Known = s.tmp2Known := rfl
@[simp] theorem State.zOnly_tmp3Known (s : State) (r : Word) : (s.zOnly r).tmp3Known = s.tmp3Known := rfl
@[simp] theorem State.zOnly_freeIdx (s : State) (r : Word) : (s.zOnly r).freeIdx = s.freeIdx := rfl
@[simp] theorem State.zOnly_writeLimit (s : State) (r : Word) : (s.zOnly r).writeLimit = s.writeLimit := rfl

@[simp] theorem State.logic8_a (s : State) (r : Byte) : (s.logic8 r).a = s.a := rfl
@[simp] theorem State.logic8_b (s : State) (r : Byte) : (s.logic8 r).b = s.b := rfl
@[simp] theorem State.logic8_x (s : State) (r : Byte) : (s.logic8 r).x = s.x := rfl
@[simp] theorem State.logic8_y (s : State) (r : Byte) : (s.logic8 r).y = s.y := rfl
@[simp] theorem State.logic8_sp (s : State) (r : Byte) : (s.logic8 r).sp = s.sp := rfl
@[simp] theorem State.logic8_pc (s : State) (r : Byte) : (s.logic8 r).pc = s.pc := rfl
@[simp] theorem State.logic8_ccr (s : State) (r : Byte) : (s.logic8 r).ccr = s.ccr.nzv0 r := rfl
@[simp] theorem State.logic8_tmp1 (s : State) (r : Byte) : (s.logic8 r).tmp1 = s.tmp1 := rfl
@[simp] theorem State.logic8_tmp2 (s : State) (r : Byte) : (s.logic8 r).tmp2 = s.tmp2 := rfl
@[simp] theorem State.logic8_tmp3 (s : State) (r : Byte) : (s.logic8 r).tmp3 = s.tmp3 := rfl
@[simp] theorem State.logic8_ppage (s : State) (r : Byte) : (s.logic8 r).ppage = s.ppage := rfl
@[simp] theorem State.logic8_iDelay (s : State) (r : Byte) : (s.logic8 r).iDelay = s.iDelay := rfl
@[simp] theorem State.logic8_ruleAhead (s : State) (r : Byte) : (s.logic8 r).ruleAhead = s.ruleAhead := rfl
@[simp] theorem State.logic8_run (s : State) (r : Byte) : (s.logic8 r).run = s.run := rfl
@[simp] theorem State.logic8_mem (s : State) (r : Byte) : (s.logic8 r).mem = s.mem := rfl
@[simp] theorem State.logic8_devices (s : State) (r : Byte) : (s.logic8 r).devices = s.devices := rfl
@[simp] theorem State.logic8_dev (s : State) (r : Byte) : (s.logic8 r).dev = s.dev := rfl
@[simp] theorem State.logic8_inputs (s : State) (r : Byte) : (s.logic8 r).inputs = s.inputs := rfl
@[simp] theorem State.logic8_tmp2Known (s : State) (r : Byte) : (s.logic8 r).tmp2Known = s.tmp2Known := rfl
@[simp] theorem State.logic8_tmp3Known (s : State) (r : Byte) : (s.logic8 r).tmp3Known = s.tmp3Known := rfl
@[simp] theorem State.logic8_freeIdx (s : State) (r : Byte) : (s.logic8 r).freeIdx = s.freeIdx := rfl
@[simp] theorem State.logic8_writeLimit (s : State) (r : Byte) : (s.logic8 r).writeLimit = s.writeLimit := rfl

@[simp] theorem State.testFlags_a (s : State) (m : Byte) : (s.testFlags m).a = s.a := rfl
@[simp] theorem State.testFlags_b (s : State) (m : Byte) : (s.testFlags m).b = s.b := rfl
@[simp] theorem State.testFlags_x (s : State) (m : Byte) : (s.testFlags m).x = s.x := rfl
@[simp] theorem State.testFlags_y (s : State) (m : Byte) : (s.testFlags m).y = s.y := rfl
@[simp] theorem State.testFlags_sp (s : State) (m : Byte) : (s.testFlags m).sp = s.sp := rfl
@[simp] theorem State.testFlags_pc (s : State) (m : Byte) : (s.testFlags m).pc = s.pc := rfl
@[simp] theorem State.testFlags_ccr (s : State) (m : Byte) : (s.testFlags m).ccr = s.ccr.setNzvc m.msb (m == 0) false false := rfl
@[simp] theorem State.testFlags_tmp1 (s : State) (m : Byte) : (s.testFlags m).tmp1 = s.tmp1 := rfl
@[simp] theorem State.testFlags_tmp2 (s : State) (m : Byte) : (s.testFlags m).tmp2 = s.tmp2 := rfl
@[simp] theorem State.testFlags_tmp3 (s : State) (m : Byte) : (s.testFlags m).tmp3 = s.tmp3 := rfl
@[simp] theorem State.testFlags_ppage (s : State) (m : Byte) : (s.testFlags m).ppage = s.ppage := rfl
@[simp] theorem State.testFlags_iDelay (s : State) (m : Byte) : (s.testFlags m).iDelay = s.iDelay := rfl
@[simp] theorem State.testFlags_ruleAhead (s : State) (m : Byte) : (s.testFlags m).ruleAhead = s.ruleAhead := rfl
@[simp] theorem State.testFlags_run (s : State) (m : Byte) : (s.testFlags m).run = s.run := rfl
@[simp] theorem State.testFlags_mem (s : State) (m : Byte) : (s.testFlags m).mem = s.mem := rfl
@[simp] theorem State.testFlags_devices (s : State) (m : Byte) : (s.testFlags m).devices = s.devices := rfl
@[simp] theorem State.testFlags_dev (s : State) (m : Byte) : (s.testFlags m).dev = s.dev := rfl
@[simp] theorem State.testFlags_inputs (s : State) (m : Byte) : (s.testFlags m).inputs = s.inputs := rfl
@[simp] theorem State.testFlags_tmp2Known (s : State) (m : Byte) : (s.testFlags m).tmp2Known = s.tmp2Known := rfl
@[simp] theorem State.testFlags_tmp3Known (s : State) (m : Byte) : (s.testFlags m).tmp3Known = s.tmp3Known := rfl
@[simp] theorem State.testFlags_freeIdx (s : State) (m : Byte) : (s.testFlags m).freeIdx = s.freeIdx := rfl
@[simp] theorem State.testFlags_writeLimit (s : State) (m : Byte) : (s.testFlags m).writeLimit = s.writeLimit := rfl

@[simp] theorem State.comFlags_a (s : State) (m : Byte) : (s.comFlags m).a = s.a := rfl
@[simp] theorem State.comFlags_b (s : State) (m : Byte) : (s.comFlags m).b = s.b := rfl
@[simp] theorem State.comFlags_x (s : State) (m : Byte) : (s.comFlags m).x = s.x := rfl
@[simp] theorem State.comFlags_y (s : State) (m : Byte) : (s.comFlags m).y = s.y := rfl
@[simp] theorem State.comFlags_sp (s : State) (m : Byte) : (s.comFlags m).sp = s.sp := rfl
@[simp] theorem State.comFlags_pc (s : State) (m : Byte) : (s.comFlags m).pc = s.pc := rfl
@[simp] theorem State.comFlags_ccr (s : State) (m : Byte) : (s.comFlags m).ccr = s.ccr.setNzvc m.msb (m == 0) false true := rfl
@[simp] theorem State.comFlags_tmp1 (s : State) (m : Byte) : (s.comFlags m).tmp1 = s.tmp1 := rfl
@[simp] theorem State.comFlags_tmp2 (s : State) (m : Byte) : (s.comFlags m).tmp2 = s.tmp2 := rfl
@[simp] theorem State.comFlags_tmp3 (s : State) (m : Byte) : (s.comFlags m).tmp3 = s.tmp3 := rfl
@[simp] theorem State.comFlags_ppage (s : State) (m : Byte) : (s.comFlags m).ppage = s.ppage := rfl
@[simp] theorem State.comFlags_iDelay (s : State) (m : Byte) : (s.comFlags m).iDelay = s.iDelay := rfl
@[simp] theorem State.comFlags_ruleAhead (s : State) (m : Byte) : (s.comFlags m).ruleAhead = s.ruleAhead := rfl
@[simp] theorem State.comFlags_run (s : State) (m : Byte) : (s.comFlags m).run = s.run := rfl
@[simp] theorem State.comFlags_mem (s : State) (m : Byte) : (s.comFlags m).mem = s.mem := rfl
@[simp] theorem State.comFlags_devices (s : State) (m : Byte) : (s.comFlags m).devices = s.devices := rfl
@[simp] theorem State.comFlags_dev (s : State) (m : Byte) : (s.comFlags m).dev = s.dev := rfl
@[simp] theorem State.comFlags_inputs (s : State) (m : Byte) : (s.comFlags m).inputs = s.inputs := rfl
@[simp] theorem State.comFlags_tmp2Known (s : State) (m : Byte) : (s.comFlags m).tmp2Known = s.tmp2Known := rfl
@[simp] theorem State.comFlags_tmp3Known (s : State) (m : Byte) : (s.comFlags m).tmp3Known = s.tmp3Known := rfl
@[simp] theorem State.comFlags_freeIdx (s : State) (m : Byte) : (s.comFlags m).freeIdx = s.freeIdx := rfl
@[simp] theorem State.comFlags_writeLimit (s : State) (m : Byte) : (s.comFlags m).writeLimit = s.writeLimit := rfl

@[simp] theorem State.negFlags_a (s : State) (m : Byte) : (s.negFlags m).a = s.a := rfl
@[simp] theorem State.negFlags_b (s : State) (m : Byte) : (s.negFlags m).b = s.b := rfl
@[simp] theorem State.negFlags_x (s : State) (m : Byte) : (s.negFlags m).x = s.x := rfl
@[simp] theorem State.negFlags_y (s : State) (m : Byte) : (s.negFlags m).y = s.y := rfl
@[simp] theorem State.negFlags_sp (s : State) (m : Byte) : (s.negFlags m).sp = s.sp := rfl
@[simp] theorem State.negFlags_pc (s : State) (m : Byte) : (s.negFlags m).pc = s.pc := rfl
@[simp] theorem State.negFlags_ccr (s : State) (m : Byte) : (s.negFlags m).ccr = s.ccr.setNzvc m.msb (m == 0) (m == 0x80) (m != 0) := rfl
@[simp] theorem State.negFlags_tmp1 (s : State) (m : Byte) : (s.negFlags m).tmp1 = s.tmp1 := rfl
@[simp] theorem State.negFlags_tmp2 (s : State) (m : Byte) : (s.negFlags m).tmp2 = s.tmp2 := rfl
@[simp] theorem State.negFlags_tmp3 (s : State) (m : Byte) : (s.negFlags m).tmp3 = s.tmp3 := rfl
@[simp] theorem State.negFlags_ppage (s : State) (m : Byte) : (s.negFlags m).ppage = s.ppage := rfl
@[simp] theorem State.negFlags_iDelay (s : State) (m : Byte) : (s.negFlags m).iDelay = s.iDelay := rfl
@[simp] theorem State.negFlags_ruleAhead (s : State) (m : Byte) : (s.negFlags m).ruleAhead = s.ruleAhead := rfl
@[simp] theorem State.negFlags_run (s : State) (m : Byte) : (s.negFlags m).run = s.run := rfl
@[simp] theorem State.negFlags_mem (s : State) (m : Byte) : (s.negFlags m).mem = s.mem := rfl
@[simp] theorem State.negFlags_devices (s : State) (m : Byte) : (s.negFlags m).devices = s.devices := rfl
@[simp] theorem State.negFlags_dev (s : State) (m : Byte) : (s.negFlags m).dev = s.dev := rfl
@[simp] theorem State.negFlags_inputs (s : State) (m : Byte) : (s.negFlags m).inputs = s.inputs := rfl
@[simp] theorem State.negFlags_tmp2Known (s : State) (m : Byte) : (s.negFlags m).tmp2Known = s.tmp2Known := rfl
@[simp] theorem State.negFlags_tmp3Known (s : State) (m : Byte) : (s.negFlags m).tmp3Known = s.tmp3Known := rfl
@[simp] theorem State.negFlags_freeIdx (s : State) (m : Byte) : (s.negFlags m).freeIdx = s.freeIdx := rfl
@[simp] theorem State.negFlags_writeLimit (s : State) (m : Byte) : (s.negFlags m).writeLimit = s.writeLimit := rfl

@[simp] theorem State.shiftFlags_a (s : State) {w : Nat} (r : Shift w) : (s.shiftFlags r).a = s.a := rfl
@[simp] theorem State.shiftFlags_b (s : State) {w : Nat} (r : Shift w) : (s.shiftFlags r).b = s.b := rfl
@[simp] theorem State.shiftFlags_x (s : State) {w : Nat} (r : Shift w) : (s.shiftFlags r).x = s.x := rfl
@[simp] theorem State.shiftFlags_y (s : State) {w : Nat} (r : Shift w) : (s.shiftFlags r).y = s.y := rfl
@[simp] theorem State.shiftFlags_sp (s : State) {w : Nat} (r : Shift w) : (s.shiftFlags r).sp = s.sp := rfl
@[simp] theorem State.shiftFlags_pc (s : State) {w : Nat} (r : Shift w) : (s.shiftFlags r).pc = s.pc := rfl
@[simp] theorem State.shiftFlags_ccr (s : State) {w : Nat} (r : Shift w) : (s.shiftFlags r).ccr = s.ccr.setNzvc r.res.msb (r.res == 0) (r.res.msb ^^ r.cout) r.cout := rfl
@[simp] theorem State.shiftFlags_tmp1 (s : State) {w : Nat} (r : Shift w) : (s.shiftFlags r).tmp1 = s.tmp1 := rfl
@[simp] theorem State.shiftFlags_tmp2 (s : State) {w : Nat} (r : Shift w) : (s.shiftFlags r).tmp2 = s.tmp2 := rfl
@[simp] theorem State.shiftFlags_tmp3 (s : State) {w : Nat} (r : Shift w) : (s.shiftFlags r).tmp3 = s.tmp3 := rfl
@[simp] theorem State.shiftFlags_ppage (s : State) {w : Nat} (r : Shift w) : (s.shiftFlags r).ppage = s.ppage := rfl
@[simp] theorem State.shiftFlags_iDelay (s : State) {w : Nat} (r : Shift w) : (s.shiftFlags r).iDelay = s.iDelay := rfl
@[simp] theorem State.shiftFlags_ruleAhead (s : State) {w : Nat} (r : Shift w) : (s.shiftFlags r).ruleAhead = s.ruleAhead := rfl
@[simp] theorem State.shiftFlags_run (s : State) {w : Nat} (r : Shift w) : (s.shiftFlags r).run = s.run := rfl
@[simp] theorem State.shiftFlags_mem (s : State) {w : Nat} (r : Shift w) : (s.shiftFlags r).mem = s.mem := rfl
@[simp] theorem State.shiftFlags_devices (s : State) {w : Nat} (r : Shift w) : (s.shiftFlags r).devices = s.devices := rfl
@[simp] theorem State.shiftFlags_dev (s : State) {w : Nat} (r : Shift w) : (s.shiftFlags r).dev = s.dev := rfl
@[simp] theorem State.shiftFlags_inputs (s : State) {w : Nat} (r : Shift w) : (s.shiftFlags r).inputs = s.inputs := rfl
@[simp] theorem State.shiftFlags_tmp2Known (s : State) {w : Nat} (r : Shift w) : (s.shiftFlags r).tmp2Known = s.tmp2Known := rfl
@[simp] theorem State.shiftFlags_tmp3Known (s : State) {w : Nat} (r : Shift w) : (s.shiftFlags r).tmp3Known = s.tmp3Known := rfl
@[simp] theorem State.shiftFlags_freeIdx (s : State) {w : Nat} (r : Shift w) : (s.shiftFlags r).freeIdx = s.freeIdx := rfl
@[simp] theorem State.shiftFlags_writeLimit (s : State) {w : Nat} (r : Shift w) : (s.shiftFlags r).writeLimit = s.writeLimit := rfl

@[simp] theorem State.setZvc_a (s : State) (z v c : Bool) : (s.setZvc z v c).a = s.a := rfl
@[simp] theorem State.setZvc_b (s : State) (z v c : Bool) : (s.setZvc z v c).b = s.b := rfl
@[simp] theorem State.setZvc_x (s : State) (z v c : Bool) : (s.setZvc z v c).x = s.x := rfl
@[simp] theorem State.setZvc_y (s : State) (z v c : Bool) : (s.setZvc z v c).y = s.y := rfl
@[simp] theorem State.setZvc_sp (s : State) (z v c : Bool) : (s.setZvc z v c).sp = s.sp := rfl
@[simp] theorem State.setZvc_pc (s : State) (z v c : Bool) : (s.setZvc z v c).pc = s.pc := rfl
@[simp] theorem State.setZvc_ccr (s : State) (z v c : Bool) : (s.setZvc z v c).ccr = { s.ccr with z := z, v := v, c := c } := rfl
@[simp] theorem State.setZvc_tmp1 (s : State) (z v c : Bool) : (s.setZvc z v c).tmp1 = s.tmp1 := rfl
@[simp] theorem State.setZvc_tmp2 (s : State) (z v c : Bool) : (s.setZvc z v c).tmp2 = s.tmp2 := rfl
@[simp] theorem State.setZvc_tmp3 (s : State) (z v c : Bool) : (s.setZvc z v c).tmp3 = s.tmp3 := rfl
@[simp] theorem State.setZvc_ppage (s : State) (z v c : Bool) : (s.setZvc z v c).ppage = s.ppage := rfl
@[simp] theorem State.setZvc_iDelay (s : State) (z v c : Bool) : (s.setZvc z v c).iDelay = s.iDelay := rfl
@[simp] theorem State.setZvc_ruleAhead (s : State) (z v c : Bool) : (s.setZvc z v c).ruleAhead = s.ruleAhead := rfl
@[simp] theorem State.setZvc_run (s : State) (z v c : Bool) : (s.setZvc z v c).run = s.run := rfl
@[simp] theorem State.setZvc_mem (s : State) (z v c : Bool) : (s.setZvc z v c).mem = s.mem := rfl
@[simp] theorem State.setZvc_devices (s : State) (z v c : Bool) : (s.setZvc z v c).devices = s.devices := rfl
@[simp] theorem State.setZvc_dev (s : State) (z v c : Bool) : (s.setZvc z v c).dev = s.dev := rfl
@[simp] theorem State.setZvc_inputs (s : State) (z v c : Bool) : (s.setZvc z v c).inputs = s.inputs := rfl
@[simp] theorem State.setZvc_tmp2Known (s : State) (z v c : Bool) : (s.setZvc z v c).tmp2Known = s.tmp2Known := rfl
@[simp] theorem State.setZvc_tmp3Known (s : State) (z v c : Bool) : (s.setZvc z v c).tmp3Known = s.tmp3Known := rfl
@[simp] theorem State.setZvc_freeIdx (s : State) (z v c : Bool) : (s.setZvc z v c).freeIdx = s.freeIdx := rfl
@[simp] theorem State.setZvc_writeLimit (s : State) (z v c : Bool) : (s.setZvc z v c).writeLimit = s.writeLimit := rfl

@[simp] theorem State.nzc_a (s : State) {w : Nat} (r : BitVec w) (c : Bool) : (s.nzc r c).a = s.a := rfl
@[simp] theorem State.nzc_b (s : State) {w : Nat} (r : BitVec w) (c : Bool) : (s.nzc r c).b = s.b := rfl
@[simp] theorem State.nzc_x (s : State) {w : Nat} (r : BitVec w) (c : Bool) : (s.nzc r c).x = s.x := rfl
@[simp] theorem State.nzc_y (s : State) {w : Nat} (r : BitVec w) (c : Bool) : (s.nzc r c).y = s.y := rfl
@[simp] theorem State.nzc_sp (s : State) {w : Nat} (r : BitVec w) (c : Bool) : (s.nzc r c).sp = s.sp := rfl
@[simp] theorem State.nzc_pc (s : State) {w : Nat} (r : BitVec w) (c : Bool) : (s.nzc r c).pc = s.pc := rfl
@[simp] theorem State.nzc_ccr (s : State) {w : Nat} (r : BitVec w) (c : Bool) : (s.nzc r c).ccr = { s.ccr.nz r with c := c } := rfl
@[simp] theorem State.nzc_tmp1 (s : State) {w : Nat} (r : BitVec w) (c : Bool) : (s.nzc r c).tmp1 = s.tmp1 := rfl
@[simp] theorem State.nzc_tmp2 (s : State) {w : Nat} (r : BitVec w) (c : Bool) : (s.nzc r c).tmp2 = s.tmp2 := rfl
@[simp] theorem State.nzc_tmp3 (s : State) {w : Nat} (r : BitVec w) (c : Bool) : (s.nzc r c).tmp3 = s.tmp3 := rfl
@[simp] theorem State.nzc_ppage (s : State) {w : Nat} (r : BitVec w) (c : Bool) : (s.nzc r c).ppage = s.ppage := rfl
@[simp] theorem State.nzc_iDelay (s : State) {w : Nat} (r : BitVec w) (c : Bool) : (s.nzc r c).iDelay = s.iDelay := rfl
@[simp] theorem State.nzc_ruleAhead (s : State) {w : Nat} (r : BitVec w) (c : Bool) : (s.nzc r c).ruleAhead = s.ruleAhead := rfl
@[simp] theorem State.nzc_run (s : State) {w : Nat} (r : BitVec w) (c : Bool) : (s.nzc r c).run = s.run := rfl
@[simp] theorem State.nzc_mem (s : State) {w : Nat} (r : BitVec w) (c : Bool) : (s.nzc r c).mem = s.mem := rfl
@[simp] theorem State.nzc_devices (s : State) {w : Nat} (r : BitVec w) (c : Bool) : (s.nzc r c).devices = s.devices := rfl
@[simp] theorem State.nzc_dev (s : State) {w : Nat} (r : BitVec w) (c : Bool) : (s.nzc r c).dev = s.dev := rfl
@[simp] theorem State.nzc_inputs (s : State) {w : Nat} (r : BitVec w) (c : Bool) : (s.nzc r c).inputs = s.inputs := rfl
@[simp] theorem State.nzc_tmp2Known (s : State) {w : Nat} (r : BitVec w) (c : Bool) : (s.nzc r c).tmp2Known = s.tmp2Known := rfl
@[simp] theorem State.nzc_tmp3Known (s : State) {w : Nat} (r : BitVec w) (c : Bool) : (s.nzc r c).tmp3Known = s.tmp3Known := rfl
@[simp] theorem State.nzc_freeIdx (s : State) {w : Nat} (r : BitVec w) (c : Bool) : (s.nzc r c).freeIdx = s.freeIdx := rfl
@[simp] theorem State.nzc_writeLimit (s : State) {w : Nat} (r : BitVec w) (c : Bool) : (s.nzc r c).writeLimit = s.writeLimit := rfl

@[simp] theorem State.setYD_a (s : State) (p : BitVec 32) : (s.setYD p).a = hiByte (loWord p) := rfl
@[simp] theorem State.setYD_b (s : State) (p : BitVec 32) : (s.setYD p).b = loByte (loWord p) := rfl
@[simp] theorem State.setYD_x (s : State) (p : BitVec 32) : (s.setYD p).x = s.x := rfl
@[simp] theorem State.setYD_y (s : State) (p : BitVec 32) : (s.setYD p).y = hiWord p := rfl
@[simp] theorem State.setYD_sp (s : State) (p : BitVec 32) : (s.setYD p).sp = s.sp := rfl
@[simp] theorem State.setYD_pc (s : State) (p : BitVec 32) : (s.setYD p).pc = s.pc := rfl
@[simp] theorem State.setYD_ccr (s : State) (p : BitVec 32) : (s.setYD p).ccr = s.ccr := rfl
@[simp] theorem State.setYD_tmp1 (s : State) (p : BitVec 32) : (s.setYD p).tmp1 = s.tmp1 := rfl
@[simp] theorem State.setYD_tmp2 (s : State) (p : BitVec 32) : (s.setYD p).tmp2 = s.tmp2 := rfl
@[simp] theorem State.setYD_tmp3 (s : State) (p : BitVec 32) : (s.setYD p).tmp3 = s.tmp3 := rfl
@[simp] theorem State.setYD_ppage (s : State) (p : BitVec 32) : (s.setYD p).ppage = s.ppage := rfl
@[simp] theorem State.setYD_iDelay (s : State) (p : BitVec 32) : (s.setYD p).iDelay = s.iDelay := rfl
@[simp] theorem State.setYD_ruleAhead (s : State) (p : BitVec 32) : (s.setYD p).ruleAhead = s.ruleAhead := rfl
@[simp] theorem State.setYD_run (s : State) (p : BitVec 32) : (s.setYD p).run = s.run := rfl
@[simp] theorem State.setYD_mem (s : State) (p : BitVec 32) : (s.setYD p).mem = s.mem := rfl
@[simp] theorem State.setYD_devices (s : State) (p : BitVec 32) : (s.setYD p).devices = s.devices := rfl
@[simp] theorem State.setYD_dev (s : State) (p : BitVec 32) : (s.setYD p).dev = s.dev := rfl
@[simp] theorem State.setYD_inputs (s : State) (p : BitVec 32) : (s.setYD p).inputs = s.inputs := rfl
@[simp] theorem State.setYD_tmp2Known (s : State) (p : BitVec 32) : (s.setYD p).tmp2Known = s.tmp2Known := rfl
@[simp] theorem State.setYD_tmp3Known (s : State) (p : BitVec 32) : (s.setYD p).tmp3Known = s.tmp3Known := rfl
@[simp] theorem State.setYD_freeIdx (s : State) (p : BitVec 32) : (s.setYD p).freeIdx = s.freeIdx := rfl
@[simp] theorem State.setYD_writeLimit (s : State) (p : BitVec 32) : (s.setYD p).writeLimit = s.writeLimit := rfl

@[simp] theorem State.armDelay_a (s : State) (u : State) : (s.armDelay u).a = s.a := rfl
@[simp] theorem State.armDelay_b (s : State) (u : State) : (s.armDelay u).b = s.b := rfl
@[simp] theorem State.armDelay_x (s : State) (u : State) : (s.armDelay u).x = s.x := rfl
@[simp] theorem State.armDelay_y (s : State) (u : State) : (s.armDelay u).y = s.y := rfl
@[simp] theorem State.armDelay_sp (s : State) (u : State) : (s.armDelay u).sp = s.sp := rfl
@[simp] theorem State.armDelay_pc (s : State) (u : State) : (s.armDelay u).pc = s.pc := rfl
@[simp] theorem State.armDelay_ccr (s : State) (u : State) : (s.armDelay u).ccr = s.ccr := rfl
@[simp] theorem State.armDelay_tmp1 (s : State) (u : State) : (s.armDelay u).tmp1 = s.tmp1 := rfl
@[simp] theorem State.armDelay_tmp2 (s : State) (u : State) : (s.armDelay u).tmp2 = s.tmp2 := rfl
@[simp] theorem State.armDelay_tmp3 (s : State) (u : State) : (s.armDelay u).tmp3 = s.tmp3 := rfl
@[simp] theorem State.armDelay_ppage (s : State) (u : State) : (s.armDelay u).ppage = s.ppage := rfl
@[simp] theorem State.armDelay_iDelay (s : State) (u : State) : (s.armDelay u).iDelay = (u.ccr.i && !s.ccr.i) := rfl
@[simp] theorem State.armDelay_ruleAhead (s : State) (u : State) : (s.armDelay u).ruleAhead = s.ruleAhead := rfl
@[simp] theorem State.armDelay_run (s : State) (u : State) : (s.armDelay u).run = s.run := rfl
@[simp] theorem State.armDelay_mem (s : State) (u : State) : (s.armDelay u).mem = s.mem := rfl
@[simp] theorem State.armDelay_devices (s : State) (u : State) : (s.armDelay u).devices = s.devices := rfl
@[simp] theorem State.armDelay_dev (s : State) (u : State) : (s.armDelay u).dev = s.dev := rfl
@[simp] theorem State.armDelay_inputs (s : State) (u : State) : (s.armDelay u).inputs = s.inputs := rfl
@[simp] theorem State.armDelay_tmp2Known (s : State) (u : State) : (s.armDelay u).tmp2Known = s.tmp2Known := rfl
@[simp] theorem State.armDelay_tmp3Known (s : State) (u : State) : (s.armDelay u).tmp3Known = s.tmp3Known := rfl
@[simp] theorem State.armDelay_freeIdx (s : State) (u : State) : (s.armDelay u).freeIdx = s.freeIdx := rfl
@[simp] theorem State.armDelay_writeLimit (s : State) (u : State) : (s.armDelay u).writeLimit = s.writeLimit := rfl

@[simp] theorem State.delayIfCleared_a (s : State) (u : State) : (s.delayIfCleared u).a = s.a := rfl
@[simp] theorem State.delayIfCleared_b (s : State) (u : State) : (s.delayIfCleared u).b = s.b := rfl
@[simp] theorem State.delayIfCleared_x (s : State) (u : State) : (s.delayIfCleared u).x = s.x := rfl
@[simp] theorem State.delayIfCleared_y (s : State) (u : State) : (s.delayIfCleared u).y = s.y := rfl
@[simp] theorem State.delayIfCleared_sp (s : State) (u : State) : (s.delayIfCleared u).sp = s.sp := rfl
@[simp] theorem State.delayIfCleared_pc (s : State) (u : State) : (s.delayIfCleared u).pc = s.pc := rfl
@[simp] theorem State.delayIfCleared_ccr (s : State) (u : State) : (s.delayIfCleared u).ccr = s.ccr := rfl
@[simp] theorem State.delayIfCleared_tmp1 (s : State) (u : State) : (s.delayIfCleared u).tmp1 = s.tmp1 := rfl
@[simp] theorem State.delayIfCleared_tmp2 (s : State) (u : State) : (s.delayIfCleared u).tmp2 = s.tmp2 := rfl
@[simp] theorem State.delayIfCleared_tmp3 (s : State) (u : State) : (s.delayIfCleared u).tmp3 = s.tmp3 := rfl
@[simp] theorem State.delayIfCleared_ppage (s : State) (u : State) : (s.delayIfCleared u).ppage = s.ppage := rfl
@[simp] theorem State.delayIfCleared_iDelay (s : State) (u : State) : (s.delayIfCleared u).iDelay = (u.ccr.i && !s.ccr.i) := rfl
@[simp] theorem State.delayIfCleared_ruleAhead (s : State) (u : State) : (s.delayIfCleared u).ruleAhead = s.ruleAhead := rfl
@[simp] theorem State.delayIfCleared_run (s : State) (u : State) : (s.delayIfCleared u).run = s.run := rfl
@[simp] theorem State.delayIfCleared_mem (s : State) (u : State) : (s.delayIfCleared u).mem = s.mem := rfl
@[simp] theorem State.delayIfCleared_devices (s : State) (u : State) : (s.delayIfCleared u).devices = s.devices := rfl
@[simp] theorem State.delayIfCleared_dev (s : State) (u : State) : (s.delayIfCleared u).dev = s.dev := rfl
@[simp] theorem State.delayIfCleared_inputs (s : State) (u : State) : (s.delayIfCleared u).inputs = s.inputs := rfl
@[simp] theorem State.delayIfCleared_tmp2Known (s : State) (u : State) : (s.delayIfCleared u).tmp2Known = s.tmp2Known := rfl
@[simp] theorem State.delayIfCleared_tmp3Known (s : State) (u : State) : (s.delayIfCleared u).tmp3Known = s.tmp3Known := rfl
@[simp] theorem State.delayIfCleared_freeIdx (s : State) (u : State) : (s.delayIfCleared u).freeIdx = s.freeIdx := rfl
@[simp] theorem State.delayIfCleared_writeLimit (s : State) (u : State) : (s.delayIfCleared u).writeLimit = s.writeLimit := rfl

@[simp] theorem State.enterHandler_a (s : State) (t : Word) (m : Bool) : (s.enterHandler t m).a = s.a := rfl
@[simp] theorem State.enterHandler_b (s : State) (t : Word) (m : Bool) : (s.enterHandler t m).b = s.b := rfl
@[simp] theorem State.enterHandler_x (s : State) (t : Word) (m : Bool) : (s.enterHandler t m).x = s.x := rfl
@[simp] theorem State.enterHandler_y (s : State) (t : Word) (m : Bool) : (s.enterHandler t m).y = s.y := rfl
@[simp] theorem State.enterHandler_sp (s : State) (t : Word) (m : Bool) : (s.enterHandler t m).sp = s.sp := rfl
@[simp] theorem State.enterHandler_pc (s : State) (t : Word) (m : Bool) : (s.enterHandler t m).pc = t := rfl
@[simp] theorem State.enterHandler_ccr (s : State) (t : Word) (m : Bool) : (s.enterHandler t m).ccr = s.ccr.mask m := rfl
@[simp] theorem State.enterHandler_tmp1 (s : State) (t : Word) (m : Bool) : (s.enterHandler t m).tmp1 = s.tmp1 := rfl
@[simp] theorem State.enterHandler_tmp2 (s : State) (t : Word) (m : Bool) : (s.enterHandler t m).tmp2 = s.tmp2 := rfl
@[simp] theorem State.enterHandler_tmp3 (s : State) (t : Word) (m : Bool) : (s.enterHandler t m).tmp3 = s.tmp3 := rfl
@[simp] theorem State.enterHandler_ppage (s : State) (t : Word) (m : Bool) : (s.enterHandler t m).ppage = s.ppage := rfl
@[simp] theorem State.enterHandler_iDelay (s : State) (t : Word) (m : Bool) : (s.enterHandler t m).iDelay = false := rfl
@[simp] theorem State.enterHandler_ruleAhead (s : State) (t : Word) (m : Bool) : (s.enterHandler t m).ruleAhead = none := rfl
@[simp] theorem State.enterHandler_run (s : State) (t : Word) (m : Bool) : (s.enterHandler t m).run = .running := rfl
@[simp] theorem State.enterHandler_mem (s : State) (t : Word) (m : Bool) : (s.enterHandler t m).mem = s.mem := rfl
@[simp] theorem State.enterHandler_devices (s : State) (t : Word) (m : Bool) : (s.enterHandler t m).devices = s.devices := rfl
@[simp] theorem State.enterHandler_dev (s : State) (t : Word) (m : Bool) : (s.enterHandler t m).dev = s.dev := rfl
@[simp] theorem State.enterHandler_inputs (s : State) (t : Word) (m : Bool) : (s.enterHandler t m).inputs = s.inputs := rfl
@[simp] theorem State.enterHandler_tmp2Known (s : State) (t : Word) (m : Bool) : (s.enterHandler t m).tmp2Known = false := rfl
@[simp] theorem State.enterHandler_tmp3Known (s : State) (t : Word) (m : Bool) : (s.enterHandler t m).tmp3Known = false := rfl
@[simp] theorem State.enterHandler_freeIdx (s : State) (t : Word) (m : Bool) : (s.enterHandler t m).freeIdx = s.freeIdx := rfl
@[simp] theorem State.enterHandler_writeLimit (s : State) (t : Word) (m : Bool) : (s.enterHandler t m).writeLimit = s.writeLimit := rfl

@[simp] theorem AutoReg_set_a (r : AutoReg) (v : Word) (s : State) : (r.set v s).a = s.a := by cases r <;> rfl
@[simp] theorem AutoReg_set_b (r : AutoReg) (v : Word) (s : State) : (r.set v s).b = s.b := by cases r <;> rfl
@[simp] theorem AutoReg_set_pc (r : AutoReg) (v : Word) (s : State) : (r.set v s).pc = s.pc := by cases r <;> rfl
@[simp] theorem AutoReg_set_ccr (r : AutoReg) (v : Word) (s : State) : (r.set v s).ccr = s.ccr := by cases r <;> rfl
@[simp] theorem AutoReg_set_tmp1 (r : AutoReg) (v : Word) (s : State) : (r.set v s).tmp1 = s.tmp1 := by cases r <;> rfl
@[simp] theorem AutoReg_set_tmp2 (r : AutoReg) (v : Word) (s : State) : (r.set v s).tmp2 = s.tmp2 := by cases r <;> rfl
@[simp] theorem AutoReg_set_tmp3 (r : AutoReg) (v : Word) (s : State) : (r.set v s).tmp3 = s.tmp3 := by cases r <;> rfl
@[simp] theorem AutoReg_set_ppage (r : AutoReg) (v : Word) (s : State) : (r.set v s).ppage = s.ppage := by cases r <;> rfl
@[simp] theorem AutoReg_set_iDelay (r : AutoReg) (v : Word) (s : State) : (r.set v s).iDelay = s.iDelay := by cases r <;> rfl
@[simp] theorem AutoReg_set_ruleAhead (r : AutoReg) (v : Word) (s : State) : (r.set v s).ruleAhead = s.ruleAhead := by cases r <;> rfl
@[simp] theorem AutoReg_set_run (r : AutoReg) (v : Word) (s : State) : (r.set v s).run = s.run := by cases r <;> rfl
@[simp] theorem AutoReg_set_mem (r : AutoReg) (v : Word) (s : State) : (r.set v s).mem = s.mem := by cases r <;> rfl
@[simp] theorem AutoReg_set_devices (r : AutoReg) (v : Word) (s : State) : (r.set v s).devices = s.devices := by cases r <;> rfl
@[simp] theorem AutoReg_set_dev (r : AutoReg) (v : Word) (s : State) : (r.set v s).dev = s.dev := by cases r <;> rfl
@[simp] theorem AutoReg_set_inputs (r : AutoReg) (v : Word) (s : State) : (r.set v s).inputs = s.inputs := by cases r <;> rfl
@[simp] theorem AutoReg_set_tmp2Known (r : AutoReg) (v : Word) (s : State) : (r.set v s).tmp2Known = s.tmp2Known := by cases r <;> rfl
@[simp] theorem AutoReg_set_tmp3Known (r : AutoReg) (v : Word) (s : State) : (r.set v s).tmp3Known = s.tmp3Known := by cases r <;> rfl
@[simp] theorem AutoReg_set_freeIdx (r : AutoReg) (v : Word) (s : State) : (r.set v s).freeIdx = s.freeIdx := by cases r <;> rfl
@[simp] theorem AutoReg_set_writeLimit (r : AutoReg) (v : Word) (s : State) : (r.set v s).writeLimit = s.writeLimit := by cases r <;> rfl

@[simp] theorem State.tookByte_a (s : State) : s.tookByte.a = s.a := by
  unfold State.tookByte; split <;> rfl
@[simp] theorem State.tookByte_b (s : State) : s.tookByte.b = s.b := by
  unfold State.tookByte; split <;> rfl
@[simp] theorem State.tookByte_x (s : State) : s.tookByte.x = s.x + 1 := by
  unfold State.tookByte; split <;> rfl
@[simp] theorem State.tookByte_y (s : State) : s.tookByte.y = s.y := by
  unfold State.tookByte; split <;> rfl
@[simp] theorem State.tookByte_sp (s : State) : s.tookByte.sp = s.sp := by
  unfold State.tookByte; split <;> rfl
@[simp] theorem State.tookByte_pc (s : State) : s.tookByte.pc = s.pc := by
  unfold State.tookByte; split <;> rfl
@[simp] theorem State.tookByte_ccr (s : State) : s.tookByte.ccr = s.ccr := by
  unfold State.tookByte; split <;> rfl
@[simp] theorem State.tookByte_tmp1 (s : State) : s.tookByte.tmp1 = s.tmp1 := by
  unfold State.tookByte; split <;> rfl
@[simp] theorem State.tookByte_tmp2 (s : State) : s.tookByte.tmp2 = s.tmp2 := by
  unfold State.tookByte; split <;> rfl
@[simp] theorem State.tookByte_tmp3 (s : State) : s.tookByte.tmp3 = s.tmp3 := by
  unfold State.tookByte; split <;> rfl
@[simp] theorem State.tookByte_ppage (s : State) : s.tookByte.ppage = s.ppage := by
  unfold State.tookByte; split <;> rfl
@[simp] theorem State.tookByte_iDelay (s : State) : s.tookByte.iDelay = s.iDelay := by
  unfold State.tookByte; split <;> rfl
@[simp] theorem State.tookByte_ruleAhead (s : State) : s.tookByte.ruleAhead = none := by
  unfold State.tookByte; split <;> rfl
@[simp] theorem State.tookByte_run (s : State) : s.tookByte.run = s.run := by
  unfold State.tookByte; split <;> rfl
@[simp] theorem State.tookByte_mem (s : State) : s.tookByte.mem = s.mem := by
  unfold State.tookByte; split <;> rfl
@[simp] theorem State.tookByte_dev (s : State) : s.tookByte.dev = s.dev := by
  unfold State.tookByte; split <;> rfl
@[simp] theorem State.tookByte_inputs (s : State) : s.tookByte.inputs = s.inputs := by
  unfold State.tookByte; split <;> rfl
@[simp] theorem State.tookByte_tmp2Known (s : State) : s.tookByte.tmp2Known = s.tmp2Known := by
  unfold State.tookByte; split <;> rfl
@[simp] theorem State.tookByte_tmp3Known (s : State) : s.tookByte.tmp3Known = s.tmp3Known := by
  unfold State.tookByte; split <;> rfl
@[simp] theorem State.tookByte_freeIdx (s : State) : s.tookByte.freeIdx = s.freeIdx := by
  unfold State.tookByte; split <;> rfl
@[simp] theorem State.tookByte_writeLimit (s : State) : s.tookByte.writeLimit = s.writeLimit := by
  unfold State.tookByte; split <;> rfl

@[simp] theorem State.tookWord_a (s : State) : s.tookWord.a = s.a := by
  unfold State.tookWord; split <;> rfl
@[simp] theorem State.tookWord_b (s : State) : s.tookWord.b = s.b := by
  unfold State.tookWord; split <;> rfl
@[simp] theorem State.tookWord_x (s : State) : s.tookWord.x = s.x + 2 := by
  unfold State.tookWord; split <;> rfl
@[simp] theorem State.tookWord_y (s : State) : s.tookWord.y = s.y := by
  unfold State.tookWord; split <;> rfl
@[simp] theorem State.tookWord_sp (s : State) : s.tookWord.sp = s.sp := by
  unfold State.tookWord; split <;> rfl
@[simp] theorem State.tookWord_pc (s : State) : s.tookWord.pc = s.pc := by
  unfold State.tookWord; split <;> rfl
@[simp] theorem State.tookWord_ccr (s : State) : s.tookWord.ccr = s.ccr := by
  unfold State.tookWord; split <;> rfl
@[simp] theorem State.tookWord_tmp1 (s : State) : s.tookWord.tmp1 = s.tmp1 := by
  unfold State.tookWord; split <;> rfl
@[simp] theorem State.tookWord_tmp2 (s : State) : s.tookWord.tmp2 = s.tmp2 := by
  unfold State.tookWord; split <;> rfl
@[simp] theorem State.tookWord_tmp3 (s : State) : s.tookWord.tmp3 = s.tmp3 := by
  unfold State.tookWord; split <;> rfl
@[simp] theorem State.tookWord_ppage (s : State) : s.tookWord.ppage = s.ppage := by
  unfold State.tookWord; split <;> rfl
@[simp] theorem State.tookWord_iDelay (s : State) : s.tookWord.iDelay = s.iDelay := by
  unfold State.tookWord; split <;> rfl
@[simp] theorem State.tookWord_ruleAhead (s : State) : s.tookWord.ruleAhead = none := by
  unfold State.tookWord; split <;> rfl
@[simp] theorem State.tookWord_run (s : State) : s.tookWord.run = s.run := by
  unfold State.tookWord; split <;> rfl
@[simp] theorem State.tookWord_mem (s : State) : s.tookWord.mem = s.mem := by
  unfold State.tookWord; split <;> rfl
@[simp] theorem State.tookWord_dev (s : State) : s.tookWord.dev = s.dev := by
  unfold State.tookWord; split <;> rfl
@[simp] theorem State.tookWord_inputs (s : State) : s.tookWord.inputs = s.inputs := by
  unfold State.tookWord; split <;> rfl
@[simp] theorem State.tookWord_tmp2Known (s : State) : s.tookWord.tmp2Known = s.tmp2Known := by
  unfold State.tookWord; split <;> rfl
@[simp] theorem State.tookWord_tmp3Known (s : State) : s.tookWord.tmp3Known = s.tmp3Known := by
  unfold State.tookWord; split <;> rfl
@[simp] theorem State.tookWord_freeIdx (s : State) : s.tookWord.freeIdx = s.freeIdx := by
  unfold State.tookWord; split <;> rfl
@[simp] theorem State.tookWord_writeLimit (s : State) : s.tookWord.writeLimit = s.writeLimit := by
  unfold State.tookWord; split <;> rfl

@[simp] theorem Idx_side_a (i : Idx) (p : Word) (s : State) : (i.side p s).a = s.a := by cases i <;> simp [Idx.side]
@[simp] theorem Idx_side_b (i : Idx) (p : Word) (s : State) : (i.side p s).b = s.b := by cases i <;> simp [Idx.side]
@[simp] theorem Idx_side_pc (i : Idx) (p : Word) (s : State) : (i.side p s).pc = s.pc := by cases i <;> simp [Idx.side]
@[simp] theorem Idx_side_ccr (i : Idx) (p : Word) (s : State) : (i.side p s).ccr = s.ccr := by cases i <;> simp [Idx.side]
@[simp] theorem Idx_side_tmp1 (i : Idx) (p : Word) (s : State) : (i.side p s).tmp1 = s.tmp1 := by cases i <;> simp [Idx.side]
@[simp] theorem Idx_side_tmp2 (i : Idx) (p : Word) (s : State) : (i.side p s).tmp2 = s.tmp2 := by cases i <;> simp [Idx.side]
@[simp] theorem Idx_side_tmp3 (i : Idx) (p : Word) (s : State) : (i.side p s).tmp3 = s.tmp3 := by cases i <;> simp [Idx.side]
@[simp] theorem Idx_side_ppage (i : Idx) (p : Word) (s : State) : (i.side p s).ppage = s.ppage := by cases i <;> simp [Idx.side]
@[simp] theorem Idx_side_iDelay (i : Idx) (p : Word) (s : State) : (i.side p s).iDelay = s.iDelay := by cases i <;> simp [Idx.side]
@[simp] theorem Idx_side_ruleAhead (i : Idx) (p : Word) (s : State) : (i.side p s).ruleAhead = s.ruleAhead := by cases i <;> simp [Idx.side]
@[simp] theorem Idx_side_run (i : Idx) (p : Word) (s : State) : (i.side p s).run = s.run := by cases i <;> simp [Idx.side]
@[simp] theorem Idx_side_mem (i : Idx) (p : Word) (s : State) : (i.side p s).mem = s.mem := by cases i <;> simp [Idx.side]
@[simp] theorem Idx_side_dev (i : Idx) (p : Word) (s : State) : (i.side p s).dev = s.dev := by cases i <;> simp [Idx.side]
@[simp] theorem Idx_side_inputs (i : Idx) (p : Word) (s : State) : (i.side p s).inputs = s.inputs := by cases i <;> simp [Idx.side]
@[simp] theorem Idx_side_tmp2Known (i : Idx) (p : Word) (s : State) : (i.side p s).tmp2Known = s.tmp2Known := by cases i <;> simp [Idx.side]
@[simp] theorem Idx_side_tmp3Known (i : Idx) (p : Word) (s : State) : (i.side p s).tmp3Known = s.tmp3Known := by cases i <;> simp [Idx.side]
@[simp] theorem Idx_side_freeIdx (i : Idx) (p : Word) (s : State) : (i.side p s).freeIdx = s.freeIdx := by cases i <;> simp [Idx.side]
@[simp] theorem Idx_side_writeLimit (i : Idx) (p : Word) (s : State) : (i.side p s).writeLimit = s.writeLimit := by cases i <;> simp [Idx.side]

@[simp] theorem Src8_side_a (i : Src8) (p : Word) (s : State) : (i.side p s).a = s.a := by cases i <;> simp [Src8.side]
@[simp] theorem Src8_side_b (i : Src8) (p : Word) (s : State) : (i.side p s).b = s.b := by cases i <;> simp [Src8.side]
@[simp] theorem Src8_side_pc (i : Src8) (p : Word) (s : State) : (i.side p s).pc = s.pc := by cases i <;> simp [Src8.side]
@[simp] theorem Src8_side_ccr (i : Src8) (p : Word) (s : State) : (i.side p s).ccr = s.ccr := by cases i <;> simp [Src8.side]
@[simp] theorem Src8_side_tmp1 (i : Src8) (p : Word) (s : State) : (i.side p s).tmp1 = s.tmp1 := by cases i <;> simp [Src8.side]
@[simp] theorem Src8_side_tmp2 (i : Src8) (p : Word) (s : State) : (i.side p s).tmp2 = s.tmp2 := by cases i <;> simp [Src8.side]
@[simp] theorem Src8_side_tmp3 (i : Src8) (p : Word) (s : State) : (i.side p s).tmp3 = s.tmp3 := by cases i <;> simp [Src8.side]
@[simp] theorem Src8_side_ppage (i : Src8) (p : Word) (s : State) : (i.side p s).ppage = s.ppage := by cases i <;> simp [Src8.side]
@[simp] theorem Src8_side_iDelay (i : Src8) (p : Word) (s : State) : (i.side p s).iDelay = s.iDelay := by cases i <;> simp [Src8.side]
@[simp] theorem Src8_side_ruleAhead (i : Src8) (p : Word) (s : State) : (i.side p s).ruleAhead = s.ruleAhead := by cases i <;> simp [Src8.side]
@[simp] theorem Src8_side_run (i : Src8) (p : Word) (s : State) : (i.side p s).run = s.run := by cases i <;> simp [Src8.side]
@[simp] theorem Src8_side_mem (i : Src8) (p : Word) (s : State) : (i.side p s).mem = s.mem := by cases i <;> simp [Src8.side]
@[simp] theorem Src8_side_dev (i : Src8) (p : Word) (s : State) : (i.side p s).dev = s.dev := by cases i <;> simp [Src8.side]
@[simp] theorem Src8_side_inputs (i : Src8) (p : Word) (s : State) : (i.side p s).inputs = s.inputs := by cases i <;> simp [Src8.side]
@[simp] theorem Src8_side_tmp2Known (i : Src8) (p : Word) (s : State) : (i.side p s).tmp2Known = s.tmp2Known := by cases i <;> simp [Src8.side]
@[simp] theorem Src8_side_tmp3Known (i : Src8) (p : Word) (s : State) : (i.side p s).tmp3Known = s.tmp3Known := by cases i <;> simp [Src8.side]
@[simp] theorem Src8_side_freeIdx (i : Src8) (p : Word) (s : State) : (i.side p s).freeIdx = s.freeIdx := by cases i <;> simp [Src8.side]
@[simp] theorem Src8_side_writeLimit (i : Src8) (p : Word) (s : State) : (i.side p s).writeLimit = s.writeLimit := by cases i <;> simp [Src8.side]

@[simp] theorem Src16_side_a (i : Src16) (p : Word) (s : State) : (i.side p s).a = s.a := by cases i <;> simp [Src16.side]
@[simp] theorem Src16_side_b (i : Src16) (p : Word) (s : State) : (i.side p s).b = s.b := by cases i <;> simp [Src16.side]
@[simp] theorem Src16_side_pc (i : Src16) (p : Word) (s : State) : (i.side p s).pc = s.pc := by cases i <;> simp [Src16.side]
@[simp] theorem Src16_side_ccr (i : Src16) (p : Word) (s : State) : (i.side p s).ccr = s.ccr := by cases i <;> simp [Src16.side]
@[simp] theorem Src16_side_tmp1 (i : Src16) (p : Word) (s : State) : (i.side p s).tmp1 = s.tmp1 := by cases i <;> simp [Src16.side]
@[simp] theorem Src16_side_tmp2 (i : Src16) (p : Word) (s : State) : (i.side p s).tmp2 = s.tmp2 := by cases i <;> simp [Src16.side]
@[simp] theorem Src16_side_tmp3 (i : Src16) (p : Word) (s : State) : (i.side p s).tmp3 = s.tmp3 := by cases i <;> simp [Src16.side]
@[simp] theorem Src16_side_ppage (i : Src16) (p : Word) (s : State) : (i.side p s).ppage = s.ppage := by cases i <;> simp [Src16.side]
@[simp] theorem Src16_side_iDelay (i : Src16) (p : Word) (s : State) : (i.side p s).iDelay = s.iDelay := by cases i <;> simp [Src16.side]
@[simp] theorem Src16_side_ruleAhead (i : Src16) (p : Word) (s : State) : (i.side p s).ruleAhead = s.ruleAhead := by cases i <;> simp [Src16.side]
@[simp] theorem Src16_side_run (i : Src16) (p : Word) (s : State) : (i.side p s).run = s.run := by cases i <;> simp [Src16.side]
@[simp] theorem Src16_side_mem (i : Src16) (p : Word) (s : State) : (i.side p s).mem = s.mem := by cases i <;> simp [Src16.side]
@[simp] theorem Src16_side_dev (i : Src16) (p : Word) (s : State) : (i.side p s).dev = s.dev := by cases i <;> simp [Src16.side]
@[simp] theorem Src16_side_inputs (i : Src16) (p : Word) (s : State) : (i.side p s).inputs = s.inputs := by cases i <;> simp [Src16.side]
@[simp] theorem Src16_side_tmp2Known (i : Src16) (p : Word) (s : State) : (i.side p s).tmp2Known = s.tmp2Known := by cases i <;> simp [Src16.side]
@[simp] theorem Src16_side_tmp3Known (i : Src16) (p : Word) (s : State) : (i.side p s).tmp3Known = s.tmp3Known := by cases i <;> simp [Src16.side]
@[simp] theorem Src16_side_freeIdx (i : Src16) (p : Word) (s : State) : (i.side p s).freeIdx = s.freeIdx := by cases i <;> simp [Src16.side]
@[simp] theorem Src16_side_writeLimit (i : Src16) (p : Word) (s : State) : (i.side p s).writeLimit = s.writeLimit := by cases i <;> simp [Src16.side]

@[simp] theorem MemOp_side_a (i : MemOp) (p : Word) (s : State) : (i.side p s).a = s.a := by cases i <;> simp [MemOp.side]
@[simp] theorem MemOp_side_b (i : MemOp) (p : Word) (s : State) : (i.side p s).b = s.b := by cases i <;> simp [MemOp.side]
@[simp] theorem MemOp_side_pc (i : MemOp) (p : Word) (s : State) : (i.side p s).pc = s.pc := by cases i <;> simp [MemOp.side]
@[simp] theorem MemOp_side_ccr (i : MemOp) (p : Word) (s : State) : (i.side p s).ccr = s.ccr := by cases i <;> simp [MemOp.side]
@[simp] theorem MemOp_side_tmp1 (i : MemOp) (p : Word) (s : State) : (i.side p s).tmp1 = s.tmp1 := by cases i <;> simp [MemOp.side]
@[simp] theorem MemOp_side_tmp2 (i : MemOp) (p : Word) (s : State) : (i.side p s).tmp2 = s.tmp2 := by cases i <;> simp [MemOp.side]
@[simp] theorem MemOp_side_tmp3 (i : MemOp) (p : Word) (s : State) : (i.side p s).tmp3 = s.tmp3 := by cases i <;> simp [MemOp.side]
@[simp] theorem MemOp_side_ppage (i : MemOp) (p : Word) (s : State) : (i.side p s).ppage = s.ppage := by cases i <;> simp [MemOp.side]
@[simp] theorem MemOp_side_iDelay (i : MemOp) (p : Word) (s : State) : (i.side p s).iDelay = s.iDelay := by cases i <;> simp [MemOp.side]
@[simp] theorem MemOp_side_ruleAhead (i : MemOp) (p : Word) (s : State) : (i.side p s).ruleAhead = s.ruleAhead := by cases i <;> simp [MemOp.side]
@[simp] theorem MemOp_side_run (i : MemOp) (p : Word) (s : State) : (i.side p s).run = s.run := by cases i <;> simp [MemOp.side]
@[simp] theorem MemOp_side_mem (i : MemOp) (p : Word) (s : State) : (i.side p s).mem = s.mem := by cases i <;> simp [MemOp.side]
@[simp] theorem MemOp_side_dev (i : MemOp) (p : Word) (s : State) : (i.side p s).dev = s.dev := by cases i <;> simp [MemOp.side]
@[simp] theorem MemOp_side_inputs (i : MemOp) (p : Word) (s : State) : (i.side p s).inputs = s.inputs := by cases i <;> simp [MemOp.side]
@[simp] theorem MemOp_side_tmp2Known (i : MemOp) (p : Word) (s : State) : (i.side p s).tmp2Known = s.tmp2Known := by cases i <;> simp [MemOp.side]
@[simp] theorem MemOp_side_tmp3Known (i : MemOp) (p : Word) (s : State) : (i.side p s).tmp3Known = s.tmp3Known := by cases i <;> simp [MemOp.side]
@[simp] theorem MemOp_side_freeIdx (i : MemOp) (p : Word) (s : State) : (i.side p s).freeIdx = s.freeIdx := by cases i <;> simp [MemOp.side]
@[simp] theorem MemOp_side_writeLimit (i : MemOp) (p : Word) (s : State) : (i.side p s).writeLimit = s.writeLimit := by cases i <;> simp [MemOp.side]

@[simp] theorem ExtIdx_side_a (i : ExtIdx) (p : Word) (s : State) : (i.side p s).a = s.a := by cases i <;> simp [ExtIdx.side]
@[simp] theorem ExtIdx_side_b (i : ExtIdx) (p : Word) (s : State) : (i.side p s).b = s.b := by cases i <;> simp [ExtIdx.side]
@[simp] theorem ExtIdx_side_pc (i : ExtIdx) (p : Word) (s : State) : (i.side p s).pc = s.pc := by cases i <;> simp [ExtIdx.side]
@[simp] theorem ExtIdx_side_ccr (i : ExtIdx) (p : Word) (s : State) : (i.side p s).ccr = s.ccr := by cases i <;> simp [ExtIdx.side]
@[simp] theorem ExtIdx_side_tmp1 (i : ExtIdx) (p : Word) (s : State) : (i.side p s).tmp1 = s.tmp1 := by cases i <;> simp [ExtIdx.side]
@[simp] theorem ExtIdx_side_tmp2 (i : ExtIdx) (p : Word) (s : State) : (i.side p s).tmp2 = s.tmp2 := by cases i <;> simp [ExtIdx.side]
@[simp] theorem ExtIdx_side_tmp3 (i : ExtIdx) (p : Word) (s : State) : (i.side p s).tmp3 = s.tmp3 := by cases i <;> simp [ExtIdx.side]
@[simp] theorem ExtIdx_side_ppage (i : ExtIdx) (p : Word) (s : State) : (i.side p s).ppage = s.ppage := by cases i <;> simp [ExtIdx.side]
@[simp] theorem ExtIdx_side_iDelay (i : ExtIdx) (p : Word) (s : State) : (i.side p s).iDelay = s.iDelay := by cases i <;> simp [ExtIdx.side]
@[simp] theorem ExtIdx_side_ruleAhead (i : ExtIdx) (p : Word) (s : State) : (i.side p s).ruleAhead = s.ruleAhead := by cases i <;> simp [ExtIdx.side]
@[simp] theorem ExtIdx_side_run (i : ExtIdx) (p : Word) (s : State) : (i.side p s).run = s.run := by cases i <;> simp [ExtIdx.side]
@[simp] theorem ExtIdx_side_mem (i : ExtIdx) (p : Word) (s : State) : (i.side p s).mem = s.mem := by cases i <;> simp [ExtIdx.side]
@[simp] theorem ExtIdx_side_dev (i : ExtIdx) (p : Word) (s : State) : (i.side p s).dev = s.dev := by cases i <;> simp [ExtIdx.side]
@[simp] theorem ExtIdx_side_inputs (i : ExtIdx) (p : Word) (s : State) : (i.side p s).inputs = s.inputs := by cases i <;> simp [ExtIdx.side]
@[simp] theorem ExtIdx_side_tmp2Known (i : ExtIdx) (p : Word) (s : State) : (i.side p s).tmp2Known = s.tmp2Known := by cases i <;> simp [ExtIdx.side]
@[simp] theorem ExtIdx_side_tmp3Known (i : ExtIdx) (p : Word) (s : State) : (i.side p s).tmp3Known = s.tmp3Known := by cases i <;> simp [ExtIdx.side]
@[simp] theorem ExtIdx_side_freeIdx (i : ExtIdx) (p : Word) (s : State) : (i.side p s).freeIdx = s.freeIdx := by cases i <;> simp [ExtIdx.side]
@[simp] theorem ExtIdx_side_writeLimit (i : ExtIdx) (p : Word) (s : State) : (i.side p s).writeLimit = s.writeLimit := by cases i <;> simp [ExtIdx.side]

@[simp] theorem MovSrc8_side_a (i : MovSrc8) (p : Word) (s : State) : (i.side p s).a = s.a := by cases i <;> simp [MovSrc8.side]
@[simp] theorem MovSrc8_side_b (i : MovSrc8) (p : Word) (s : State) : (i.side p s).b = s.b := by cases i <;> simp [MovSrc8.side]
@[simp] theorem MovSrc8_side_pc (i : MovSrc8) (p : Word) (s : State) : (i.side p s).pc = s.pc := by cases i <;> simp [MovSrc8.side]
@[simp] theorem MovSrc8_side_ccr (i : MovSrc8) (p : Word) (s : State) : (i.side p s).ccr = s.ccr := by cases i <;> simp [MovSrc8.side]
@[simp] theorem MovSrc8_side_tmp1 (i : MovSrc8) (p : Word) (s : State) : (i.side p s).tmp1 = s.tmp1 := by cases i <;> simp [MovSrc8.side]
@[simp] theorem MovSrc8_side_tmp2 (i : MovSrc8) (p : Word) (s : State) : (i.side p s).tmp2 = s.tmp2 := by cases i <;> simp [MovSrc8.side]
@[simp] theorem MovSrc8_side_tmp3 (i : MovSrc8) (p : Word) (s : State) : (i.side p s).tmp3 = s.tmp3 := by cases i <;> simp [MovSrc8.side]
@[simp] theorem MovSrc8_side_ppage (i : MovSrc8) (p : Word) (s : State) : (i.side p s).ppage = s.ppage := by cases i <;> simp [MovSrc8.side]
@[simp] theorem MovSrc8_side_iDelay (i : MovSrc8) (p : Word) (s : State) : (i.side p s).iDelay = s.iDelay := by cases i <;> simp [MovSrc8.side]
@[simp] theorem MovSrc8_side_ruleAhead (i : MovSrc8) (p : Word) (s : State) : (i.side p s).ruleAhead = s.ruleAhead := by cases i <;> simp [MovSrc8.side]
@[simp] theorem MovSrc8_side_run (i : MovSrc8) (p : Word) (s : State) : (i.side p s).run = s.run := by cases i <;> simp [MovSrc8.side]
@[simp] theorem MovSrc8_side_mem (i : MovSrc8) (p : Word) (s : State) : (i.side p s).mem = s.mem := by cases i <;> simp [MovSrc8.side]
@[simp] theorem MovSrc8_side_dev (i : MovSrc8) (p : Word) (s : State) : (i.side p s).dev = s.dev := by cases i <;> simp [MovSrc8.side]
@[simp] theorem MovSrc8_side_inputs (i : MovSrc8) (p : Word) (s : State) : (i.side p s).inputs = s.inputs := by cases i <;> simp [MovSrc8.side]
@[simp] theorem MovSrc8_side_tmp2Known (i : MovSrc8) (p : Word) (s : State) : (i.side p s).tmp2Known = s.tmp2Known := by cases i <;> simp [MovSrc8.side]
@[simp] theorem MovSrc8_side_tmp3Known (i : MovSrc8) (p : Word) (s : State) : (i.side p s).tmp3Known = s.tmp3Known := by cases i <;> simp [MovSrc8.side]
@[simp] theorem MovSrc8_side_freeIdx (i : MovSrc8) (p : Word) (s : State) : (i.side p s).freeIdx = s.freeIdx := by cases i <;> simp [MovSrc8.side]
@[simp] theorem MovSrc8_side_writeLimit (i : MovSrc8) (p : Word) (s : State) : (i.side p s).writeLimit = s.writeLimit := by cases i <;> simp [MovSrc8.side]

@[simp] theorem MovSrc16_side_a (i : MovSrc16) (p : Word) (s : State) : (i.side p s).a = s.a := by cases i <;> simp [MovSrc16.side]
@[simp] theorem MovSrc16_side_b (i : MovSrc16) (p : Word) (s : State) : (i.side p s).b = s.b := by cases i <;> simp [MovSrc16.side]
@[simp] theorem MovSrc16_side_pc (i : MovSrc16) (p : Word) (s : State) : (i.side p s).pc = s.pc := by cases i <;> simp [MovSrc16.side]
@[simp] theorem MovSrc16_side_ccr (i : MovSrc16) (p : Word) (s : State) : (i.side p s).ccr = s.ccr := by cases i <;> simp [MovSrc16.side]
@[simp] theorem MovSrc16_side_tmp1 (i : MovSrc16) (p : Word) (s : State) : (i.side p s).tmp1 = s.tmp1 := by cases i <;> simp [MovSrc16.side]
@[simp] theorem MovSrc16_side_tmp2 (i : MovSrc16) (p : Word) (s : State) : (i.side p s).tmp2 = s.tmp2 := by cases i <;> simp [MovSrc16.side]
@[simp] theorem MovSrc16_side_tmp3 (i : MovSrc16) (p : Word) (s : State) : (i.side p s).tmp3 = s.tmp3 := by cases i <;> simp [MovSrc16.side]
@[simp] theorem MovSrc16_side_ppage (i : MovSrc16) (p : Word) (s : State) : (i.side p s).ppage = s.ppage := by cases i <;> simp [MovSrc16.side]
@[simp] theorem MovSrc16_side_iDelay (i : MovSrc16) (p : Word) (s : State) : (i.side p s).iDelay = s.iDelay := by cases i <;> simp [MovSrc16.side]
@[simp] theorem MovSrc16_side_ruleAhead (i : MovSrc16) (p : Word) (s : State) : (i.side p s).ruleAhead = s.ruleAhead := by cases i <;> simp [MovSrc16.side]
@[simp] theorem MovSrc16_side_run (i : MovSrc16) (p : Word) (s : State) : (i.side p s).run = s.run := by cases i <;> simp [MovSrc16.side]
@[simp] theorem MovSrc16_side_mem (i : MovSrc16) (p : Word) (s : State) : (i.side p s).mem = s.mem := by cases i <;> simp [MovSrc16.side]
@[simp] theorem MovSrc16_side_dev (i : MovSrc16) (p : Word) (s : State) : (i.side p s).dev = s.dev := by cases i <;> simp [MovSrc16.side]
@[simp] theorem MovSrc16_side_inputs (i : MovSrc16) (p : Word) (s : State) : (i.side p s).inputs = s.inputs := by cases i <;> simp [MovSrc16.side]
@[simp] theorem MovSrc16_side_tmp2Known (i : MovSrc16) (p : Word) (s : State) : (i.side p s).tmp2Known = s.tmp2Known := by cases i <;> simp [MovSrc16.side]
@[simp] theorem MovSrc16_side_tmp3Known (i : MovSrc16) (p : Word) (s : State) : (i.side p s).tmp3Known = s.tmp3Known := by cases i <;> simp [MovSrc16.side]
@[simp] theorem MovSrc16_side_freeIdx (i : MovSrc16) (p : Word) (s : State) : (i.side p s).freeIdx = s.freeIdx := by cases i <;> simp [MovSrc16.side]
@[simp] theorem MovSrc16_side_writeLimit (i : MovSrc16) (p : Word) (s : State) : (i.side p s).writeLimit = s.writeLimit := by cases i <;> simp [MovSrc16.side]

end Sys2Proof.Machine
end

