-- ==== Sys2Proof/Laws/Ops.lean ====
section
/-! SUPPORT. The laws of the shared operations: what a byte or word write, a push and a stack frame change, and what reads see
afterwards. -/

namespace Sys2Proof.Machine

/-! ### What a write leaves alone -/

@[simp] theorem State.storeByte_a (s : State) (p : Word) (v : Byte) : (s.storeByte p v).a = s.a := by
  unfold State.storeByte; split <;> [rfl; (split <;> rfl)]
@[simp] theorem State.storeByte_b (s : State) (p : Word) (v : Byte) : (s.storeByte p v).b = s.b := by
  unfold State.storeByte; split <;> [rfl; (split <;> rfl)]
@[simp] theorem State.storeByte_x (s : State) (p : Word) (v : Byte) : (s.storeByte p v).x = s.x := by
  unfold State.storeByte; split <;> [rfl; (split <;> rfl)]
@[simp] theorem State.storeByte_y (s : State) (p : Word) (v : Byte) : (s.storeByte p v).y = s.y := by
  unfold State.storeByte; split <;> [rfl; (split <;> rfl)]
@[simp] theorem State.storeByte_sp (s : State) (p : Word) (v : Byte) : (s.storeByte p v).sp = s.sp := by
  unfold State.storeByte; split <;> [rfl; (split <;> rfl)]
@[simp] theorem State.storeByte_pc (s : State) (p : Word) (v : Byte) : (s.storeByte p v).pc = s.pc := by
  unfold State.storeByte; split <;> [rfl; (split <;> rfl)]
@[simp] theorem State.storeByte_ccr (s : State) (p : Word) (v : Byte) : (s.storeByte p v).ccr = s.ccr := by
  unfold State.storeByte; split <;> [rfl; (split <;> rfl)]
@[simp] theorem State.storeByte_tmp1 (s : State) (p : Word) (v : Byte) : (s.storeByte p v).tmp1 = s.tmp1 := by
  unfold State.storeByte; split <;> [rfl; (split <;> rfl)]
@[simp] theorem State.storeByte_tmp2 (s : State) (p : Word) (v : Byte) : (s.storeByte p v).tmp2 = s.tmp2 := by
  unfold State.storeByte; split <;> [rfl; (split <;> rfl)]
@[simp] theorem State.storeByte_tmp3 (s : State) (p : Word) (v : Byte) : (s.storeByte p v).tmp3 = s.tmp3 := by
  unfold State.storeByte; split <;> [rfl; (split <;> rfl)]
@[simp] theorem State.storeByte_iDelay (s : State) (p : Word) (v : Byte) : (s.storeByte p v).iDelay = s.iDelay := by
  unfold State.storeByte; split <;> [rfl; (split <;> rfl)]
@[simp] theorem State.storeByte_ruleAhead (s : State) (p : Word) (v : Byte) : (s.storeByte p v).ruleAhead = s.ruleAhead := by
  unfold State.storeByte; split <;> [rfl; (split <;> rfl)]
@[simp] theorem State.storeByte_run (s : State) (p : Word) (v : Byte) : (s.storeByte p v).run = s.run := by
  unfold State.storeByte; split <;> [rfl; (split <;> rfl)]
@[simp] theorem State.storeByte_dev (s : State) (p : Word) (v : Byte) : (s.storeByte p v).dev = s.dev := by
  unfold State.storeByte; split <;> [rfl; (split <;> rfl)]
@[simp] theorem State.storeByte_inputs (s : State) (p : Word) (v : Byte) : (s.storeByte p v).inputs = s.inputs := by
  unfold State.storeByte; split <;> [rfl; (split <;> rfl)]
@[simp] theorem State.storeByte_tmp2Known (s : State) (p : Word) (v : Byte) : (s.storeByte p v).tmp2Known = s.tmp2Known := by
  unfold State.storeByte; split <;> [rfl; (split <;> rfl)]
@[simp] theorem State.storeByte_tmp3Known (s : State) (p : Word) (v : Byte) : (s.storeByte p v).tmp3Known = s.tmp3Known := by
  unfold State.storeByte; split <;> [rfl; (split <;> rfl)]
@[simp] theorem State.storeByte_freeIdx (s : State) (p : Word) (v : Byte) : (s.storeByte p v).freeIdx = s.freeIdx := by
  unfold State.storeByte; split <;> [rfl; (split <;> rfl)]

@[simp] theorem State.writeByte_a (s : State) (p : Word) (v : Byte) : (s.writeByte p v).a = s.a := by
  unfold State.writeByte; split <;> simp
@[simp] theorem State.writeByte_b (s : State) (p : Word) (v : Byte) : (s.writeByte p v).b = s.b := by
  unfold State.writeByte; split <;> simp
@[simp] theorem State.writeByte_x (s : State) (p : Word) (v : Byte) : (s.writeByte p v).x = s.x := by
  unfold State.writeByte; split <;> simp
@[simp] theorem State.writeByte_y (s : State) (p : Word) (v : Byte) : (s.writeByte p v).y = s.y := by
  unfold State.writeByte; split <;> simp
@[simp] theorem State.writeByte_sp (s : State) (p : Word) (v : Byte) : (s.writeByte p v).sp = s.sp := by
  unfold State.writeByte; split <;> simp
@[simp] theorem State.writeByte_pc (s : State) (p : Word) (v : Byte) : (s.writeByte p v).pc = s.pc := by
  unfold State.writeByte; split <;> simp
@[simp] theorem State.writeByte_ccr (s : State) (p : Word) (v : Byte) : (s.writeByte p v).ccr = s.ccr := by
  unfold State.writeByte; split <;> simp
@[simp] theorem State.writeByte_tmp1 (s : State) (p : Word) (v : Byte) : (s.writeByte p v).tmp1 = s.tmp1 := by
  unfold State.writeByte; split <;> simp
@[simp] theorem State.writeByte_tmp2 (s : State) (p : Word) (v : Byte) : (s.writeByte p v).tmp2 = s.tmp2 := by
  unfold State.writeByte; split <;> simp
@[simp] theorem State.writeByte_tmp3 (s : State) (p : Word) (v : Byte) : (s.writeByte p v).tmp3 = s.tmp3 := by
  unfold State.writeByte; split <;> simp
@[simp] theorem State.writeByte_iDelay (s : State) (p : Word) (v : Byte) : (s.writeByte p v).iDelay = s.iDelay := by
  unfold State.writeByte; split <;> simp
@[simp] theorem State.writeByte_ruleAhead (s : State) (p : Word) (v : Byte) : (s.writeByte p v).ruleAhead = s.ruleAhead := by
  unfold State.writeByte; split <;> simp
@[simp] theorem State.writeByte_run (s : State) (p : Word) (v : Byte) : (s.writeByte p v).run = s.run := by
  unfold State.writeByte; split <;> simp
@[simp] theorem State.writeByte_dev (s : State) (p : Word) (v : Byte) : (s.writeByte p v).dev = s.dev := by
  unfold State.writeByte; split <;> simp
@[simp] theorem State.writeByte_inputs (s : State) (p : Word) (v : Byte) : (s.writeByte p v).inputs = s.inputs := by
  unfold State.writeByte; split <;> simp
@[simp] theorem State.writeByte_tmp2Known (s : State) (p : Word) (v : Byte) : (s.writeByte p v).tmp2Known = s.tmp2Known := by
  unfold State.writeByte; split <;> simp
@[simp] theorem State.writeByte_tmp3Known (s : State) (p : Word) (v : Byte) : (s.writeByte p v).tmp3Known = s.tmp3Known := by
  unfold State.writeByte; split <;> simp
@[simp] theorem State.writeByte_freeIdx (s : State) (p : Word) (v : Byte) : (s.writeByte p v).freeIdx = s.freeIdx := by
  unfold State.writeByte; split <;> simp

@[simp] theorem State.writeWord_a (s : State) (p v : Word) : (s.writeWord p v).a = s.a := by simp [State.writeWord]
@[simp] theorem State.writeWord_b (s : State) (p v : Word) : (s.writeWord p v).b = s.b := by simp [State.writeWord]
@[simp] theorem State.writeWord_x (s : State) (p v : Word) : (s.writeWord p v).x = s.x := by simp [State.writeWord]
@[simp] theorem State.writeWord_y (s : State) (p v : Word) : (s.writeWord p v).y = s.y := by simp [State.writeWord]
@[simp] theorem State.writeWord_sp (s : State) (p v : Word) : (s.writeWord p v).sp = s.sp := by simp [State.writeWord]
@[simp] theorem State.writeWord_pc (s : State) (p v : Word) : (s.writeWord p v).pc = s.pc := by simp [State.writeWord]
@[simp] theorem State.writeWord_ccr (s : State) (p v : Word) : (s.writeWord p v).ccr = s.ccr := by simp [State.writeWord]
@[simp] theorem State.writeWord_tmp1 (s : State) (p v : Word) : (s.writeWord p v).tmp1 = s.tmp1 := by simp [State.writeWord]
@[simp] theorem State.writeWord_tmp2 (s : State) (p v : Word) : (s.writeWord p v).tmp2 = s.tmp2 := by simp [State.writeWord]
@[simp] theorem State.writeWord_tmp3 (s : State) (p v : Word) : (s.writeWord p v).tmp3 = s.tmp3 := by simp [State.writeWord]
@[simp] theorem State.writeWord_iDelay (s : State) (p v : Word) : (s.writeWord p v).iDelay = s.iDelay := by simp [State.writeWord]
@[simp] theorem State.writeWord_ruleAhead (s : State) (p v : Word) : (s.writeWord p v).ruleAhead = s.ruleAhead := by simp [State.writeWord]
@[simp] theorem State.writeWord_run (s : State) (p v : Word) : (s.writeWord p v).run = s.run := by simp [State.writeWord]
@[simp] theorem State.writeWord_dev (s : State) (p v : Word) : (s.writeWord p v).dev = s.dev := by simp [State.writeWord]
@[simp] theorem State.writeWord_inputs (s : State) (p v : Word) : (s.writeWord p v).inputs = s.inputs := by simp [State.writeWord]
@[simp] theorem State.writeWord_tmp2Known (s : State) (p v : Word) : (s.writeWord p v).tmp2Known = s.tmp2Known := by simp [State.writeWord]
@[simp] theorem State.writeWord_tmp3Known (s : State) (p v : Word) : (s.writeWord p v).tmp3Known = s.tmp3Known := by simp [State.writeWord]
@[simp] theorem State.writeWord_freeIdx (s : State) (p v : Word) : (s.writeWord p v).freeIdx = s.freeIdx := by simp [State.writeWord]

@[simp] theorem State.writeLong_a (s : State) (p : Word) (v : BitVec 32) : (s.writeLong p v).a = s.a := by simp [State.writeLong]
@[simp] theorem State.writeLong_b (s : State) (p : Word) (v : BitVec 32) : (s.writeLong p v).b = s.b := by simp [State.writeLong]
@[simp] theorem State.writeLong_x (s : State) (p : Word) (v : BitVec 32) : (s.writeLong p v).x = s.x := by simp [State.writeLong]
@[simp] theorem State.writeLong_y (s : State) (p : Word) (v : BitVec 32) : (s.writeLong p v).y = s.y := by simp [State.writeLong]
@[simp] theorem State.writeLong_sp (s : State) (p : Word) (v : BitVec 32) : (s.writeLong p v).sp = s.sp := by simp [State.writeLong]
@[simp] theorem State.writeLong_pc (s : State) (p : Word) (v : BitVec 32) : (s.writeLong p v).pc = s.pc := by simp [State.writeLong]
@[simp] theorem State.writeLong_ccr (s : State) (p : Word) (v : BitVec 32) : (s.writeLong p v).ccr = s.ccr := by simp [State.writeLong]
@[simp] theorem State.writeLong_tmp1 (s : State) (p : Word) (v : BitVec 32) : (s.writeLong p v).tmp1 = s.tmp1 := by simp [State.writeLong]
@[simp] theorem State.writeLong_tmp2 (s : State) (p : Word) (v : BitVec 32) : (s.writeLong p v).tmp2 = s.tmp2 := by simp [State.writeLong]
@[simp] theorem State.writeLong_tmp3 (s : State) (p : Word) (v : BitVec 32) : (s.writeLong p v).tmp3 = s.tmp3 := by simp [State.writeLong]
@[simp] theorem State.writeLong_iDelay (s : State) (p : Word) (v : BitVec 32) : (s.writeLong p v).iDelay = s.iDelay := by simp [State.writeLong]
@[simp] theorem State.writeLong_ruleAhead (s : State) (p : Word) (v : BitVec 32) : (s.writeLong p v).ruleAhead = s.ruleAhead := by simp [State.writeLong]
@[simp] theorem State.writeLong_run (s : State) (p : Word) (v : BitVec 32) : (s.writeLong p v).run = s.run := by simp [State.writeLong]
@[simp] theorem State.writeLong_dev (s : State) (p : Word) (v : BitVec 32) : (s.writeLong p v).dev = s.dev := by simp [State.writeLong]
@[simp] theorem State.writeLong_inputs (s : State) (p : Word) (v : BitVec 32) : (s.writeLong p v).inputs = s.inputs := by simp [State.writeLong]
@[simp] theorem State.writeLong_tmp2Known (s : State) (p : Word) (v : BitVec 32) : (s.writeLong p v).tmp2Known = s.tmp2Known := by simp [State.writeLong]
@[simp] theorem State.writeLong_tmp3Known (s : State) (p : Word) (v : BitVec 32) : (s.writeLong p v).tmp3Known = s.tmp3Known := by simp [State.writeLong]
@[simp] theorem State.writeLong_freeIdx (s : State) (p : Word) (v : BitVec 32) : (s.writeLong p v).freeIdx = s.freeIdx := by simp [State.writeLong]

@[simp] theorem State.push8_a (s : State) (v : Byte) : (s.push8 v).a = s.a := by simp [State.push8]
@[simp] theorem State.push8_b (s : State) (v : Byte) : (s.push8 v).b = s.b := by simp [State.push8]
@[simp] theorem State.push8_x (s : State) (v : Byte) : (s.push8 v).x = s.x := by simp [State.push8]
@[simp] theorem State.push8_y (s : State) (v : Byte) : (s.push8 v).y = s.y := by simp [State.push8]
@[simp] theorem State.push8_sp (s : State) (v : Byte) : (s.push8 v).sp = s.sp - 1 := by simp [State.push8]
@[simp] theorem State.push8_pc (s : State) (v : Byte) : (s.push8 v).pc = s.pc := by simp [State.push8]
@[simp] theorem State.push8_ccr (s : State) (v : Byte) : (s.push8 v).ccr = s.ccr := by simp [State.push8]
@[simp] theorem State.push8_tmp1 (s : State) (v : Byte) : (s.push8 v).tmp1 = s.tmp1 := by simp [State.push8]
@[simp] theorem State.push8_tmp2 (s : State) (v : Byte) : (s.push8 v).tmp2 = s.tmp2 := by simp [State.push8]
@[simp] theorem State.push8_tmp3 (s : State) (v : Byte) : (s.push8 v).tmp3 = s.tmp3 := by simp [State.push8]
@[simp] theorem State.push8_iDelay (s : State) (v : Byte) : (s.push8 v).iDelay = s.iDelay := by simp [State.push8]
@[simp] theorem State.push8_ruleAhead (s : State) (v : Byte) : (s.push8 v).ruleAhead = s.ruleAhead := by simp [State.push8]
@[simp] theorem State.push8_run (s : State) (v : Byte) : (s.push8 v).run = s.run := by simp [State.push8]
@[simp] theorem State.push8_dev (s : State) (v : Byte) : (s.push8 v).dev = s.dev := by simp [State.push8]
@[simp] theorem State.push8_inputs (s : State) (v : Byte) : (s.push8 v).inputs = s.inputs := by simp [State.push8]
@[simp] theorem State.push8_tmp2Known (s : State) (v : Byte) : (s.push8 v).tmp2Known = s.tmp2Known := by simp [State.push8]
@[simp] theorem State.push8_tmp3Known (s : State) (v : Byte) : (s.push8 v).tmp3Known = s.tmp3Known := by simp [State.push8]
@[simp] theorem State.push8_freeIdx (s : State) (v : Byte) : (s.push8 v).freeIdx = s.freeIdx := by simp [State.push8]

@[simp] theorem State.push16_a (s : State) (v : Word) : (s.push16 v).a = s.a := by simp [State.push16]
@[simp] theorem State.push16_b (s : State) (v : Word) : (s.push16 v).b = s.b := by simp [State.push16]
@[simp] theorem State.push16_x (s : State) (v : Word) : (s.push16 v).x = s.x := by simp [State.push16]
@[simp] theorem State.push16_y (s : State) (v : Word) : (s.push16 v).y = s.y := by simp [State.push16]
@[simp] theorem State.push16_sp (s : State) (v : Word) : (s.push16 v).sp = s.sp - 2 := by simp [State.push16]
@[simp] theorem State.push16_pc (s : State) (v : Word) : (s.push16 v).pc = s.pc := by simp [State.push16]
@[simp] theorem State.push16_ccr (s : State) (v : Word) : (s.push16 v).ccr = s.ccr := by simp [State.push16]
@[simp] theorem State.push16_tmp1 (s : State) (v : Word) : (s.push16 v).tmp1 = s.tmp1 := by simp [State.push16]
@[simp] theorem State.push16_tmp2 (s : State) (v : Word) : (s.push16 v).tmp2 = s.tmp2 := by simp [State.push16]
@[simp] theorem State.push16_tmp3 (s : State) (v : Word) : (s.push16 v).tmp3 = s.tmp3 := by simp [State.push16]
@[simp] theorem State.push16_iDelay (s : State) (v : Word) : (s.push16 v).iDelay = s.iDelay := by simp [State.push16]
@[simp] theorem State.push16_ruleAhead (s : State) (v : Word) : (s.push16 v).ruleAhead = s.ruleAhead := by simp [State.push16]
@[simp] theorem State.push16_run (s : State) (v : Word) : (s.push16 v).run = s.run := by simp [State.push16]
@[simp] theorem State.push16_dev (s : State) (v : Word) : (s.push16 v).dev = s.dev := by simp [State.push16]
@[simp] theorem State.push16_inputs (s : State) (v : Word) : (s.push16 v).inputs = s.inputs := by simp [State.push16]
@[simp] theorem State.push16_tmp2Known (s : State) (v : Word) : (s.push16 v).tmp2Known = s.tmp2Known := by simp [State.push16]
@[simp] theorem State.push16_tmp3Known (s : State) (v : Word) : (s.push16 v).tmp3Known = s.tmp3Known := by simp [State.push16]
@[simp] theorem State.push16_freeIdx (s : State) (v : Word) : (s.push16 v).freeIdx = s.freeIdx := by simp [State.push16]

@[simp] theorem State.stackFrame_a (s : State) (r : Word) : (s.stackFrame r).a = s.a := by simp [State.stackFrame]
@[simp] theorem State.stackFrame_b (s : State) (r : Word) : (s.stackFrame r).b = s.b := by simp [State.stackFrame]
@[simp] theorem State.stackFrame_x (s : State) (r : Word) : (s.stackFrame r).x = s.x := by simp [State.stackFrame]
@[simp] theorem State.stackFrame_y (s : State) (r : Word) : (s.stackFrame r).y = s.y := by simp [State.stackFrame]
@[simp] theorem State.stackFrame_sp (s : State) (r : Word) : (s.stackFrame r).sp = s.sp - 9 := by
  simp only [State.stackFrame, State.push8_sp, State.push16_sp]; bv_omega
@[simp] theorem State.stackFrame_pc (s : State) (r : Word) : (s.stackFrame r).pc = s.pc := by simp [State.stackFrame]
@[simp] theorem State.stackFrame_ccr (s : State) (r : Word) : (s.stackFrame r).ccr = s.ccr := by simp [State.stackFrame]
@[simp] theorem State.stackFrame_tmp1 (s : State) (r : Word) : (s.stackFrame r).tmp1 = s.tmp1 := by simp [State.stackFrame]
@[simp] theorem State.stackFrame_tmp2 (s : State) (r : Word) : (s.stackFrame r).tmp2 = s.tmp2 := by simp [State.stackFrame]
@[simp] theorem State.stackFrame_tmp3 (s : State) (r : Word) : (s.stackFrame r).tmp3 = s.tmp3 := by simp [State.stackFrame]
@[simp] theorem State.stackFrame_iDelay (s : State) (r : Word) : (s.stackFrame r).iDelay = s.iDelay := by simp [State.stackFrame]
@[simp] theorem State.stackFrame_ruleAhead (s : State) (r : Word) : (s.stackFrame r).ruleAhead = s.ruleAhead := by simp [State.stackFrame]
@[simp] theorem State.stackFrame_run (s : State) (r : Word) : (s.stackFrame r).run = s.run := by simp [State.stackFrame]
@[simp] theorem State.stackFrame_dev (s : State) (r : Word) : (s.stackFrame r).dev = s.dev := by simp [State.stackFrame]
@[simp] theorem State.stackFrame_inputs (s : State) (r : Word) : (s.stackFrame r).inputs = s.inputs := by simp [State.stackFrame]
@[simp] theorem State.stackFrame_tmp2Known (s : State) (r : Word) : (s.stackFrame r).tmp2Known = s.tmp2Known := by simp [State.stackFrame]
@[simp] theorem State.stackFrame_tmp3Known (s : State) (r : Word) : (s.stackFrame r).tmp3Known = s.tmp3Known := by simp [State.stackFrame]
@[simp] theorem State.stackFrame_freeIdx (s : State) (r : Word) : (s.stackFrame r).freeIdx = s.freeIdx := by simp [State.stackFrame]

/-! ### What the statements' states hold -/

@[simp] theorem State.entered_a (s : State) (p : Word) (m : Bool) : (s.entered p m).a = s.a := rfl
@[simp] theorem State.entered_b (s : State) (p : Word) (m : Bool) : (s.entered p m).b = s.b := rfl
@[simp] theorem State.entered_x (s : State) (p : Word) (m : Bool) : (s.entered p m).x = s.x := rfl
@[simp] theorem State.entered_y (s : State) (p : Word) (m : Bool) : (s.entered p m).y = s.y := rfl
@[simp] theorem State.entered_sp (s : State) (p : Word) (m : Bool) : (s.entered p m).sp = s.sp - 9 := rfl
@[simp] theorem State.entered_pc (s : State) (p : Word) (m : Bool) : (s.entered p m).pc = p := rfl
@[simp] theorem State.entered_ccr (s : State) (p : Word) (m : Bool) : (s.entered p m).ccr = { s.ccr with i := true, x := s.ccr.x || m } := rfl
@[simp] theorem State.entered_tmp1 (s : State) (p : Word) (m : Bool) : (s.entered p m).tmp1 = s.tmp1 := rfl
@[simp] theorem State.entered_tmp2 (s : State) (p : Word) (m : Bool) : (s.entered p m).tmp2 = s.tmp2 := rfl
@[simp] theorem State.entered_tmp3 (s : State) (p : Word) (m : Bool) : (s.entered p m).tmp3 = s.tmp3 := rfl
@[simp] theorem State.entered_ppage (s : State) (p : Word) (m : Bool) : (s.entered p m).ppage = s.ppage := rfl
@[simp] theorem State.entered_iDelay (s : State) (p : Word) (m : Bool) : (s.entered p m).iDelay = false := rfl
@[simp] theorem State.entered_ruleAhead (s : State) (p : Word) (m : Bool) : (s.entered p m).ruleAhead = none := rfl
@[simp] theorem State.entered_run (s : State) (p : Word) (m : Bool) : (s.entered p m).run = .running := rfl
@[simp] theorem State.entered_mem (s : State) (p : Word) (m : Bool) : (s.entered p m).mem = s.mem := rfl
@[simp] theorem State.entered_devices (s : State) (p : Word) (m : Bool) : (s.entered p m).devices = s.devices := rfl
@[simp] theorem State.entered_dev (s : State) (p : Word) (m : Bool) : (s.entered p m).dev = s.dev := rfl
@[simp] theorem State.entered_inputs (s : State) (p : Word) (m : Bool) : (s.entered p m).inputs = s.inputs := rfl
@[simp] theorem State.entered_tmp2Known (s : State) (p : Word) (m : Bool) : (s.entered p m).tmp2Known = false := rfl
@[simp] theorem State.entered_tmp3Known (s : State) (p : Word) (m : Bool) : (s.entered p m).tmp3Known = false := rfl
@[simp] theorem State.entered_freeIdx (s : State) (p : Word) (m : Bool) : (s.entered p m).freeIdx = s.freeIdx := rfl
@[simp] theorem State.entered_writeLimit (s : State) (p : Word) (m : Bool) : (s.entered p m).writeLimit = s.writeLimit := rfl

@[simp] theorem State.vectored_a (s : State) (p : Word) (m : Bool) : (s.vectored p m).a = s.a := rfl
@[simp] theorem State.vectored_b (s : State) (p : Word) (m : Bool) : (s.vectored p m).b = s.b := rfl
@[simp] theorem State.vectored_x (s : State) (p : Word) (m : Bool) : (s.vectored p m).x = s.x := rfl
@[simp] theorem State.vectored_y (s : State) (p : Word) (m : Bool) : (s.vectored p m).y = s.y := rfl
@[simp] theorem State.vectored_sp (s : State) (p : Word) (m : Bool) : (s.vectored p m).sp = s.sp - 9 := rfl
@[simp] theorem State.vectored_pc (s : State) (p : Word) (m : Bool) : (s.vectored p m).pc = s.readWord p := rfl
@[simp] theorem State.vectored_ccr (s : State) (p : Word) (m : Bool) : (s.vectored p m).ccr = { s.ccr with i := true, x := s.ccr.x || m } := rfl
@[simp] theorem State.vectored_tmp1 (s : State) (p : Word) (m : Bool) : (s.vectored p m).tmp1 = s.tmp1 := rfl
@[simp] theorem State.vectored_tmp2 (s : State) (p : Word) (m : Bool) : (s.vectored p m).tmp2 = s.tmp2 := rfl
@[simp] theorem State.vectored_tmp3 (s : State) (p : Word) (m : Bool) : (s.vectored p m).tmp3 = s.tmp3 := rfl
@[simp] theorem State.vectored_ppage (s : State) (p : Word) (m : Bool) : (s.vectored p m).ppage = s.ppage := rfl
@[simp] theorem State.vectored_iDelay (s : State) (p : Word) (m : Bool) : (s.vectored p m).iDelay = false := rfl
@[simp] theorem State.vectored_ruleAhead (s : State) (p : Word) (m : Bool) : (s.vectored p m).ruleAhead = none := rfl
@[simp] theorem State.vectored_run (s : State) (p : Word) (m : Bool) : (s.vectored p m).run = .running := rfl
@[simp] theorem State.vectored_mem (s : State) (p : Word) (m : Bool) : (s.vectored p m).mem = s.mem := rfl
@[simp] theorem State.vectored_devices (s : State) (p : Word) (m : Bool) : (s.vectored p m).devices = (s.touchWord p).devices := rfl
@[simp] theorem State.vectored_dev (s : State) (p : Word) (m : Bool) : (s.vectored p m).dev = s.dev := rfl
@[simp] theorem State.vectored_inputs (s : State) (p : Word) (m : Bool) : (s.vectored p m).inputs = s.inputs := rfl
@[simp] theorem State.vectored_tmp2Known (s : State) (p : Word) (m : Bool) : (s.vectored p m).tmp2Known = false := rfl
@[simp] theorem State.vectored_tmp3Known (s : State) (p : Word) (m : Bool) : (s.vectored p m).tmp3Known = false := rfl
@[simp] theorem State.vectored_freeIdx (s : State) (p : Word) (m : Bool) : (s.vectored p m).freeIdx = s.freeIdx := rfl
@[simp] theorem State.vectored_writeLimit (s : State) (p : Word) (m : Bool) : (s.vectored p m).writeLimit = s.writeLimit := rfl


/-! ### The canonical form is kept -/

theorem State.storeByte_inv {s : State} (h : s.Inv) (a : Word) (v : Byte) : (s.storeByte a v).Inv := by
  unfold State.Inv State.storeByte at *
  split
  · exact h
  · split
    · exact h
    · exact h
    · exact ⟨Memory.wf_write _ _ h.1, h.2⟩

/-- A byte write that no reset cuts off. -/
theorem State.writeByte_eq {s : State} (h : s.Inv) (a : Word) (v : Byte) : s.writeByte a v = s.storeByte a v := by
  unfold State.writeByte; rw [h.2]

theorem State.writeByte_inv {s : State} (h : s.Inv) (a : Word) (v : Byte) : (s.writeByte a v).Inv := by
  rw [State.writeByte_eq h]; exact State.storeByte_inv h a v

/-- Also a write that a reset may cut off keeps the canonical form. -/
theorem State.writeByte_wf {s : State} (h : s.mem.wf = true) (a : Word) (v : Byte) : (s.writeByte a v).mem.wf = true := by
  unfold State.writeByte State.storeByte
  split
  · split <;> [exact h; (split <;> first | exact h | exact Memory.wf_write _ _ h)]
  · exact h
  · split <;> [exact h; (split <;> first | exact h | exact Memory.wf_write _ _ h)]

theorem State.writeWord_wf {s : State} (h : s.mem.wf = true) (a v : Word) : (s.writeWord a v).mem.wf = true :=
  State.writeByte_wf (State.writeByte_wf h _ _) _ _

theorem State.push8_wf {s : State} (h : s.mem.wf = true) (v : Byte) : (s.push8 v).mem.wf = true :=
  State.writeByte_wf (s := { s with sp := s.sp - 1 }) h _ _

theorem State.push16_wf {s : State} (h : s.mem.wf = true) (v : Word) : (s.push16 v).mem.wf = true :=
  State.writeWord_wf (s := { s with sp := s.sp - 2 }) h _ _

theorem State.stackFrame_wf {s : State} (h : s.mem.wf = true) (r : Word) : (s.stackFrame r).mem.wf = true :=
  State.push8_wf (State.push16_wf (State.push16_wf (State.push16_wf (State.push16_wf h _) _) _) _) _

theorem State.writeWord_inv {s : State} (h : s.Inv) (a v : Word) : (s.writeWord a v).Inv :=
  State.writeByte_inv (State.writeByte_inv h _ _) _ _

theorem State.writeLong_inv {s : State} (h : s.Inv) (a : Word) (v : BitVec 32) : (s.writeLong a v).Inv :=
  State.writeWord_inv (State.writeWord_inv h _ _) _ _

theorem State.push8_inv {s : State} (h : s.Inv) (v : Byte) : (s.push8 v).Inv := by
  unfold State.push8
  exact State.writeByte_inv (show State.Inv { s with sp := s.sp - 1 } from h) _ _

theorem State.push16_inv {s : State} (h : s.Inv) (v : Word) : (s.push16 v).Inv := by
  unfold State.push16
  exact State.writeWord_inv (show State.Inv { s with sp := s.sp - 2 } from h) _ _

theorem State.stackFrame_inv {s : State} (h : s.Inv) (r : Word) : (s.stackFrame r).Inv :=
  State.push8_inv (State.push16_inv (State.push16_inv (State.push16_inv (State.push16_inv h _) _) _) _) _

/-! ### Reads after writes -/

/-- Without aliases two addresses reach one physical byte only if they are equal. -/
theorem State.physKey_inj {s : State} (h : s.dev.aliases = []) {a b : Word} : s.physKey a = s.physKey b ↔ a = b := by
  constructor
  · intro e
    apply BitVec.eq_of_toNat_eq
    have ha := a.isLt; have hb := b.isLt
    simp only [State.physKey, Device.resolve, h, List.find?_nil, State.mapKey] at e
    split at e <;> split at e <;> simp_all <;> omega
  · rintro rfl; rfl

/-- Without aliases no two addresses are names of one byte. -/
theorem State.apart_of_no_aliases {s : State} (h : s.dev.aliases = []) (ea : Word) {n : Nat} (hn : n ≤ 65536) :
    s.Apart ea n := by
  intro j k hj hk hne e
  have := (State.physKey_inj h).1 e
  apply hne
  have h2 : BitVec.ofNat 16 j = BitVec.ofNat 16 k := (BitVec.add_right_inj ea).1 this
  have h3 := congrArg BitVec.toNat h2
  simp only [BitVec.toNat_ofNat] at h3
  omega

/-- A read depends on PPAGE, the device, the devices' state and memory alone. -/
theorem State.readByte_congr {s t : State} (hp : t.ppage = s.ppage) (hd : t.dev = s.dev) (hm : t.mem = s.mem)
    (hv : t.devices = s.devices) (a : Word) : t.readByte a = s.readByte a := by
  simp only [State.readByte, State.physKey, State.mapKey, hp, hd, hm, hv]

/-- The key of an address depends on PPAGE and the device alone. -/
theorem State.physKey_congr {s t : State} (hp : t.ppage = s.ppage) (hd : t.dev = s.dev) (a : Word) :
    t.physKey a = s.physKey a := by
  simp only [State.physKey, State.mapKey, hp, hd]

/-- A read of no device register, and a read of any byte while the devices are as they were, sees PPAGE, the device and memory
alone. -/
theorem State.readByte_frame {s t : State} (hp : t.ppage = s.ppage) (hd : t.dev = s.dev) (hm : t.mem = s.mem) (a : Word)
    (h : s.NotRegister a ∨ t.devices = s.devices) : t.readByte a = s.readByte a := by
  simp only [State.readByte, State.physKey_congr hp hd, hp, hd, hm]
  rcases h with h | h
  · split <;> [rfl; (split <;> first | rfl | exact absurd (by assumption) h)]
  · rw [h]

/-- What a read makes of the devices depends on PPAGE, the device and the devices' state alone. -/
theorem State.afterRead_congr {s t : State} (hp : t.ppage = s.ppage) (hd : t.dev = s.dev) (hv : t.devices = s.devices)
    (a : Word) : t.afterRead a = s.afterRead a := by
  simp only [State.afterRead, State.physKey_congr hp hd, hd, hv]

@[simp] theorem State.touch_physKey (s : State) (p a : Word) : (s.touch p).physKey a = s.physKey a := rfl
@[simp] theorem State.touch_inv (s : State) (p : Word) : (s.touch p).Inv ↔ s.Inv := Iff.rfl
@[simp] theorem State.touch_notRegister (s : State) (p a : Word) : (s.touch p).NotRegister a ↔ s.NotRegister a := Iff.rfl
@[simp] theorem State.touchWord_physKey (s : State) (p a : Word) : (s.touchWord p).physKey a = s.physKey a := rfl
@[simp] theorem State.touchWord_inv (s : State) (p : Word) : (s.touchWord p).Inv ↔ s.Inv := Iff.rfl
@[simp] theorem State.touchWord_notRegister (s : State) (p a : Word) :
    (s.touchWord p).NotRegister a ↔ s.NotRegister a := Iff.rfl

/-- A read of no device register changes nothing (20_memory.md R65). -/
theorem State.touch_eq {s : State} {a : Word} (h : s.NotRegister a) : s.touch a = s := by
  have e : s.afterRead a = s.devices := by
    unfold State.afterRead
    split <;> [rfl; (split <;> first | rfl | exact absurd (by assumption) h)]
  rw [State.touch, e]

/-- A read of a device register is the device's own function of its state (20_memory.md R65, R70). -/
theorem State.touch_register {s : State} {a : Word} (hp : s.NotPpage a)
    (hk : s.dev.kindAt (s.physKey a) = some .register) :
    s.touch a = { s with devices := Config.deviceAfterRead s.devices (s.physKey a) } := by
  rw [State.touch, State.afterRead, if_neg hp, hk]

theorem State.touchWord_eq {s : State} {a : Word} (h : s.NotRegister a) (h' : s.NotRegister (a + 1)) :
    s.touchWord a = s := by
  rw [State.touchWord, State.touch_eq h, State.touch_eq h']

/-- A byte that is no device register reads the same after any read. -/
theorem State.readByte_touch {s : State} {b : Word} (h : s.NotRegister b) (a : Word) :
    (s.touch a).readByte b = s.readByte b := State.readByte_frame (s := s) (t := s.touch a) rfl rfl rfl b (.inl h)

theorem State.readWord_congr {s t : State} (hp : t.ppage = s.ppage) (hd : t.dev = s.dev) (hm : t.mem = s.mem)
    (hv : t.devices = s.devices) (a : Word) : t.readWord a = s.readWord a := by
  simp only [State.readWord, State.readByte_congr hp hd hm hv]
  rw [State.readByte_congr (s := s.touch a) (t := t.touch a) hp hd hm (State.afterRead_congr hp hd hv a)]

/-- A byte that reaches memory does so whatever the limit on writes says, and leaves it alone. -/
theorem State.storeByte_limit (s : State) (k : Option Nat) (a : Word) (v : Byte) :
    { s with writeLimit := k }.storeByte a v = { s.storeByte a v with writeLimit := k } := by
  unfold State.storeByte
  rw [State.physKey_congr (s := s) (t := { s with writeLimit := k }) rfl rfl]
  dsimp only
  split
  · rfl
  · split <;> rfl

/-- A byte write away from PPAGE's own address keeps PPAGE. -/
theorem State.writeByte_ppage {s : State} {a : Word} (h : s.NotPpage a) (v : Byte) : (s.writeByte a v).ppage = s.ppage := by
  have e : ∀ t : State, t.dev = s.dev → (t.storeByte a v).ppage = t.ppage := by
    intro t ht
    unfold State.storeByte
    rw [if_neg (by rw [ht]; exact h)]
    split <;> rfl
  unfold State.writeByte
  split <;> [exact e _ rfl; rfl; exact e _ rfl]

/-- A byte write to no device register keeps the devices. -/
theorem State.writeByte_devices {s : State} {a : Word} (h : s.NotRegister a) (v : Byte) :
    (s.writeByte a v).devices = s.devices := by
  have e : ∀ t : State, t.dev = s.dev → t.ppage = s.ppage → (t.storeByte a v).devices = t.devices := by
    intro t ht hp
    unfold State.storeByte
    split
    · rfl
    · split
      · next hk => exact absurd (by rw [← hk, State.physKey_congr hp ht, ht]) h
      · rfl
      · rfl
  unfold State.writeByte
  split <;> [exact e _ rfl rfl; rfl; exact e _ rfl rfl]

/-- A byte write away from PPAGE's own address, read back at any address that is no device register. -/
theorem State.readByte_writeByte {s : State} (hi : s.Inv) {a : Word} (h : s.NotPpage a) (v : Byte) {b : Word}
    (hb : s.NotRegister b) :
    (s.writeByte a v).readByte b =
      if s.dev.ppageAddr ≠ some b ∧ s.physKey b = s.physKey a ∧ s.dev.kindAt (s.physKey a) = none then v
      else s.readByte b := by
  rw [State.writeByte_eq hi]
  unfold State.storeByte
  rw [if_neg h]
  split
  · next hk =>
    rw [if_neg (by simp [hk])]
    unfold State.NotRegister at hb
    simp only [State.readByte, State.physKey, State.mapKey] at hb ⊢
    split
    · rfl
    · split <;> first | rfl | (next h2 => exact absurd h2 hb)
  · next k hk hk2 => rw [if_neg (by simp [hk2])]
  · next hk =>
    by_cases hp : s.dev.ppageAddr = some b
    · rw [if_neg (by simp [hp])]; simp only [State.readByte]; rw [if_pos hp, if_pos hp]
    · by_cases he : s.physKey b = s.physKey a
      · rw [if_pos ⟨hp, he, hk⟩]
        simp only [State.readByte]
        rw [if_neg hp]
        simp only [State.physKey, State.mapKey] at hk he ⊢
        rw [he, hk]
        simp only [Memory.read_write hi.1]
        simp
      · rw [if_neg (by tauto)]
        unfold State.NotRegister at hb
        simp only [State.readByte, State.physKey, State.mapKey] at he hb ⊢
        split
        · rfl
        · split
          · rfl
          · next h2 => exact absurd h2 hb
          · rw [Memory.read_write hi.1, if_neg he]

/-! ### Stores of several bytes -/

@[simp] theorem sameButMemory_iff (base t : State) : SameButMemory base t ↔
    t = { base with mem := t.mem, ppage := t.ppage, devices := t.devices, writeLimit := t.writeLimit } := Iff.rfl

/-- Between `s` and `t` exactly the writes `l` were made, in any order: `BytesStored` for a list of addresses and bytes. -/
def Stored (s t : State) (l : List (Word × Byte)) : Prop :=
  s.Inv → (∀ p ∈ l, s.NotPpage p.1) →
    t.ppage = s.ppage ∧ t.Inv ∧ ((∀ p ∈ l, s.NotRegister p.1) → t.devices = s.devices) ∧
    (∀ a, s.NotRegister a → (∀ p ∈ l, s.physKey a ≠ s.physKey p.1) → t.readByte a = s.readByte a) ∧
    (∀ a, ∀ p ∈ l, s.NotPpage a → s.NotRegister a → s.physKey a = s.physKey p.1 →
      (∀ q ∈ l, s.physKey q.1 = s.physKey a → q = p) →
      t.readByte a = if s.dev.kindAt (s.physKey a) = none then p.2 else s.readByte a)

theorem Stored.nil (s : State) : Stored s s [] := by
  intro h _; exact ⟨rfl, h, fun _ => rfl, fun _ _ _ => rfl, by simp⟩

/-- One more byte. -/
theorem Stored.snoc {s t : State} {l : List (Word × Byte)} (hd : t.dev = s.dev) (h : Stored s t l) (b : Word) (v : Byte) :
    Stored s (t.writeByte b v) (l ++ [(b, v)]) := by
  intro hs hp
  obtain ⟨h1, h2, h3, h4, h5⟩ := h hs fun p hpl => hp p (by simp [hpl])
  have hb : t.NotPpage b := by
    have := hp (b, v) (by simp)
    simpa [State.NotPpage, hd] using this
  have hk : ∀ a, t.physKey a = s.physKey a := State.physKey_congr h1 hd
  have hr : ∀ a, s.NotRegister a → t.NotRegister a := fun a ha => by simpa [State.NotRegister, hk, hd] using ha
  refine ⟨(State.writeByte_ppage hb v).trans h1, State.writeByte_inv h2 b v, fun hn => ?_, fun a ha hne => ?_,
    fun a p hpl hap har hka hu => ?_⟩
  · rw [State.writeByte_devices (hr b (hn (b, v) (by simp)))]
    exact h3 fun p hpl => hn p (by simp [hpl])
  · rw [State.readByte_writeByte h2 hb v (hr a ha), if_neg, h4 a ha fun p hpl => hne p (by simp [hpl])]
    rw [hk, hk]
    exact fun e => hne (b, v) (by simp) e.2.1
  · rw [State.readByte_writeByte h2 hb v (hr a har), hd, hk, hk]
    by_cases e : s.physKey a = s.physKey b
    · have hp' : (b, v) = p := hu (b, v) (by simp) e.symm
      by_cases hkn : s.dev.kindAt (s.physKey a) = none
      · rw [if_pos ⟨hap, e, e ▸ hkn⟩, if_pos hkn, ← hp']
      · rw [if_neg (fun x => hkn (e ▸ x.2.2)), if_neg hkn]
        by_cases hx : ∃ q ∈ l, s.physKey q.1 = s.physKey a
        · obtain ⟨q, hq, hqa⟩ := hx
          have : q = p := hu q (by simp [hq]) hqa
          subst this
          rw [h5 a q hq hap har hqa.symm fun q' hq' e' => hu q' (by simp [hq']) e', if_neg hkn]
        · exact h4 a har fun q hq e' => hx ⟨q, hq, e'.symm⟩
    · rw [if_neg (fun x => e x.2.1)]
      have hpl' : p ∈ l := by
        rcases List.mem_append.1 hpl with h | h
        · exact h
        · simp only [List.mem_singleton] at h; subst h; exact absurd hka e
      exact h5 a p hpl' hap har hka fun q hq e' => hu q (by simp [hq]) e'

/-- The same writes, seen in states that agree on what reads depend on. -/
theorem Stored.congr {s t s' t' : State} {l : List (Word × Byte)} (h : Stored s t l)
    (hp : s'.ppage = s.ppage) (hd : s'.dev = s.dev) (hm : s'.mem = s.mem) (hv : s'.devices = s.devices)
    (hl : s'.writeLimit = s.writeLimit)
    (hp' : t'.ppage = t.ppage) (hd' : t'.dev = t.dev) (hm' : t'.mem = t.mem) (hv' : t'.devices = t.devices)
    (hl' : t'.writeLimit = t.writeLimit) : Stored s' t' l := by
  have e : ∀ a, s'.physKey a = s.physKey a := State.physKey_congr hp hd
  unfold Stored State.Inv State.NotPpage State.NotRegister at h ⊢
  simp only [e, hd, hm, hl, hp, hv, hp', hm', hl', hv', State.readByte_congr hp hd hm hv,
    State.readByte_congr hp' hd' hm' hv']
  exact h

/-- The order of the writes, and one made twice, make no difference. -/
theorem Stored.mono {s t : State} {l l' : List (Word × Byte)} (h : Stored s t l) (e : ∀ p, p ∈ l ↔ p ∈ l') :
    Stored s t l' := by
  unfold Stored at h ⊢
  simpa only [e] using h

/-- A read of both states: a read changes the devices alone, and by the same function. -/
theorem Stored.touch {s t : State} {l : List (Word × Byte)} (hd : t.dev = s.dev) (h : Stored s t l) (a : Word) :
    Stored (s.touch a) (t.touch a) l := by
  intro hs hp
  obtain ⟨h1, h2, h3, h4, h5⟩ := h hs hp
  have ht : ∀ b, s.NotRegister b → t.NotRegister b := fun b hb => by
    simpa only [State.NotRegister, State.physKey_congr h1 hd, hd] using hb
  have e : ∀ b, s.NotRegister b → (t.touch a).readByte b = t.readByte b ∧ (s.touch a).readByte b = s.readByte b :=
    fun b hb => ⟨State.readByte_touch (ht b hb) a, State.readByte_touch hb a⟩
  refine ⟨h1, h2, fun hn => State.afterRead_congr h1 hd (h3 hn) a, fun b hb hne => ?_, fun b p hpl hbp hbr hk hu => ?_⟩
  · rw [(e b hb).1, (e b hb).2]; exact h4 b hb hne
  · rw [(e b hbr).1, (e b hbr).2]; exact h5 b p hpl hbp hbr hk hu

theorem Stored.touchWord {s t : State} {l : List (Word × Byte)} (hd : t.dev = s.dev) (h : Stored s t l) (a : Word) :
    Stored (s.touchWord a) (t.touchWord a) l := Stored.touch (s := s.touch a) (t := t.touch a) hd (h.touch hd a) (a + 1)

/-- The bytes `vs` at the addresses from `ea` upwards. -/
def bytesAt : Word → List Byte → List (Word × Byte)
  | _, [] => []
  | ea, v :: vs => (ea, v) :: bytesAt (ea + 1) vs

theorem mem_bytesAt {p : Word × Byte} {vs : List Byte} : ∀ {ea : Word},
    p ∈ bytesAt ea vs ↔ ∃ k, vs[k]? = some p.2 ∧ p.1 = ea + BitVec.ofNat 16 k := by
  induction vs with
  | nil => simp [bytesAt]
  | cons v vs ih =>
    intro ea
    have e : ∀ k, ea + 1 + BitVec.ofNat 16 k = ea + BitVec.ofNat 16 (k + 1) := fun k => by
      rw [Nat.add_comm, BitVec.ofNat_add, ← BitVec.add_assoc]; rfl
    rw [bytesAt, List.mem_cons, ih]
    constructor
    · rintro (h | ⟨k, hk, hp⟩)
      · exact ⟨0, by simp [h], by simp [h]⟩
      · exact ⟨k + 1, by simpa using hk, hp.trans (e k)⟩
    · rintro ⟨_ | k, hk, hp⟩
      · exact .inl (Prod.ext (by simpa using hp) (by simpa using hk.symm))
      · exact .inr ⟨k, by simpa using hk, hp.trans (e k).symm⟩

/-- The writes of a store are its bytes from `ea` upwards. -/
theorem Stored.bytes {s t : State} {ea : Word} {vs : List Byte} (h : Stored s t (bytesAt ea vs)) :
    BytesStored s t ea vs := by
  intro hs hp
  have hlt : ∀ {k : Nat} {v : Byte}, vs[k]? = some v → k < vs.length := fun hk => (List.getElem?_eq_some_iff.1 hk).1
  obtain ⟨h1, h2, h3, h4, h5⟩ := h hs fun p hpl => by
    obtain ⟨k, hk, e⟩ := mem_bytesAt.1 hpl
    rw [e]; exact hp k (hlt hk)
  refine ⟨h1, h2.2, fun hn => h3 fun p hpl => ?_, fun a ha hne => h4 a ha fun p hpl => ?_, fun a k v hk hap har hka hu => ?_⟩
  · obtain ⟨k, hk, e⟩ := mem_bytesAt.1 hpl
    rw [e]; exact hn k (hlt hk)
  · obtain ⟨k, hk, e⟩ := mem_bytesAt.1 hpl
    rw [e]; exact hne k (hlt hk)
  · refine h5 a (ea + BitVec.ofNat 16 k, v) (mem_bytesAt.2 ⟨k, hk, rfl⟩) hap har hka fun q hq e => ?_
    obtain ⟨j, hj, ej⟩ := mem_bytesAt.1 hq
    by_cases hjk : j = k
    · subst hjk
      ext1
      · exact ej
      · simpa [hj] using hk
    · exact absurd (ej ▸ e) (hu j (hlt hj) hjk)

/-- A store of bytes, seen in states that agree on what reads depend on. -/
theorem BytesStored.congr {s t s' t' : State} {ea : Word} {vs : List Byte} (h : BytesStored s t ea vs)
    (hp : s'.ppage = s.ppage) (hd : s'.dev = s.dev) (hm : s'.mem = s.mem) (hv : s'.devices = s.devices)
    (hl : s'.writeLimit = s.writeLimit)
    (hp' : t'.ppage = t.ppage) (hd' : t'.dev = t.dev) (hm' : t'.mem = t.mem) (hv' : t'.devices = t.devices)
    (hl' : t'.writeLimit = t.writeLimit) : BytesStored s' t' ea vs := by
  have e : ∀ a, s'.physKey a = s.physKey a := State.physKey_congr hp hd
  unfold BytesStored State.Inv State.NotPpage State.NotRegister at h ⊢
  simp only [e, hd, hm, hl, hp, hv, hp', hl', hv', State.readByte_congr hp hd hm hv,
    State.readByte_congr hp' hd' hm' hv']
  exact h

theorem Stored.word {s t : State} {l : List (Word × Byte)} (hd : t.dev = s.dev) (h : Stored s t l) (a v : Word) :
    Stored s (t.writeWord a v) (l ++ [(a, hiByte v), (a + 1, loByte v)]) := by
  have := (h.snoc hd a (hiByte v)).snoc (by simp [hd]) (a + 1) (loByte v)
  simpa [State.writeWord] using this

theorem Stored.push16 {s t : State} {l : List (Word × Byte)} (hd : t.dev = s.dev) (h : Stored s t l) (v : Word) :
    Stored s (t.push16 v) (l ++ [(t.sp - 2, hiByte v), (t.sp - 2 + 1, loByte v)]) :=
  Stored.word (t := { t with sp := t.sp - 2 }) hd (h.congr rfl rfl rfl rfl rfl rfl rfl rfl rfl rfl) _ v

theorem Stored.push8 {s t : State} {l : List (Word × Byte)} (hd : t.dev = s.dev) (h : Stored s t l) (v : Byte) :
    Stored s (t.push8 v) (l ++ [(t.sp - 1, v)]) :=
  Stored.snoc (t := { t with sp := t.sp - 1 }) hd (h.congr rfl rfl rfl rfl rfl rfl rfl rfl rfl rfl) _ v

theorem State.writeByte_stored (s : State) (a : Word) (v : Byte) : BytesStored s (s.writeByte a v) a [v] :=
  ((Stored.nil s).snoc rfl a v).bytes

theorem State.writeWord_stored (s : State) (a v : Word) : BytesStored s (s.writeWord a v) a [hiByte v, loByte v] :=
  ((Stored.nil s).word rfl a v).bytes

theorem State.writeLong_stored (s : State) (a : Word) (v : BitVec 32) :
    BytesStored s (s.writeLong a v) a [hiByte (hiWord v), loByte (hiWord v), hiByte (loWord v), loByte (loWord v)] := by
  have h := ((Stored.nil s).word rfl a (hiWord v)).word (by simp) (a + 2) (loWord v)
  have e2 : a + 2 = a + 1 + 1 := by bv_omega
  refine Stored.bytes (h.mono fun p => ?_)
  rw [e2]; rfl

theorem State.push8_stored (s : State) (v : Byte) : BytesStored s (s.push8 v) (s.sp - 1) [v] :=
  (State.writeByte_stored { s with sp := s.sp - 1 } (s.sp - 1) v).congr rfl rfl rfl rfl rfl rfl rfl rfl rfl rfl

theorem State.push16_stored (s : State) (v : Word) : BytesStored s (s.push16 v) (s.sp - 2) [hiByte v, loByte v] :=
  (State.writeWord_stored { s with sp := s.sp - 2 } (s.sp - 2) v).congr rfl rfl rfl rfl rfl rfl rfl rfl rfl rfl

theorem hiByte_eq (v : Word) : hiByte v = BitVec.ofNat 8 (v.toNat / 256) := by
  apply BitVec.eq_of_toNat_eq; simp [hiByte, Nat.shiftRight_eq_div_pow]

theorem loByte_eq (v : Word) : loByte v = BitVec.ofNat 8 v.toNat := by
  apply BitVec.eq_of_toNat_eq; simp [loByte]

theorem wordBE_eq (v : Word) : wordBE v = [hiByte v, loByte v] := by simp [wordBE, hiByte_eq, loByte_eq]

theorem word_toNat (h l : Byte) : (word h l).toNat = 256 * h.toNat + l.toNat := by
  simp only [word, BitVec.toNat_append]
  rw [← Nat.shiftLeft_add_eq_or_of_lt l.isLt, Nat.shiftLeft_eq]
  omega

@[simp] theorem hiByte_word (h l : Byte) : hiByte (word h l) = h := by
  apply BitVec.eq_of_toNat_eq
  have := h.isLt; have := l.isLt
  simp only [hiByte_eq, word_toNat, BitVec.toNat_ofNat]
  omega

@[simp] theorem loByte_word (h l : Byte) : loByte (word h l) = l := by
  apply BitVec.eq_of_toNat_eq
  have := h.isLt; have := l.isLt
  simp only [loByte_eq, word_toNat, BitVec.toNat_ofNat]
  omega

theorem d_eq (s : State) : s.d = BitVec.ofNat 16 s.dNat := by
  apply BitVec.eq_of_toNat_eq
  have ha := s.a.isLt; have hb := s.b.isLt
  simp only [State.d, word_toNat, State.dNat, BitVec.toNat_ofNat]
  omega

theorem d_toNat (s : State) : s.d.toNat = s.dNat := word_toNat _ _

theorem setD_eq (s : State) (v : Word) : s.setD v = s.withD v.toNat := by
  simp only [State.setD, State.withD, hiByte_eq, loByte_eq]

theorem ccr_toByte_eq (c : Ccr) : c.toByte = BitVec.ofNat 8 c.nat := by
  obtain ⟨s, x, h, i, n, z, v, c⟩ := c
  cases s <;> cases x <;> cases h <;> cases i <;> cases n <;> cases z <;> cases v <;> cases c <;> decide

/-- One more word pushed below what is on the stack. -/
theorem Stored.push16_below {s t : State} {ea : Word} {vs : List Byte} (hd : t.dev = s.dev) (hsp : t.sp = ea)
    (h : Stored s t (bytesAt ea vs)) (v : Word) : Stored s (t.push16 v) (bytesAt (ea - 2) (wordBE v ++ vs)) := by
  have e : ea - 2 + 1 + 1 = ea := by bv_omega
  refine (h.push16 hd v).mono fun p => ?_
  simp only [hsp, wordBE_eq, List.cons_append, List.nil_append, bytesAt, e, List.mem_append, List.mem_cons,
    List.not_mem_nil, or_false]
  rw [or_comm, or_assoc]

/-- One more byte pushed below what is on the stack. -/
theorem Stored.push8_below {s t : State} {ea : Word} {vs : List Byte} (hd : t.dev = s.dev) (hsp : t.sp = ea)
    (h : Stored s t (bytesAt ea vs)) (v : Byte) : Stored s (t.push8 v) (bytesAt (ea - 1) (v :: vs)) := by
  have e : ea - 1 + 1 = ea := by bv_omega
  refine (h.push8 hd v).mono fun p => ?_
  simp only [hsp, bytesAt, e, List.mem_append, List.mem_cons, List.not_mem_nil, or_false]
  rw [or_comm]

/-- The frame pushed below what is on the stack: nine bytes (60_exceptions.md R508). -/
theorem Stored.stackFrame_below {s t : State} {ea : Word} {vs : List Byte} (hd : t.dev = s.dev) (hsp : t.sp = ea)
    (h : Stored s t (bytesAt ea vs)) (r : Word) : Stored s (t.stackFrame r) (bytesAt (ea - 9) (t.frameBytes r ++ vs)) := by
  have e : ea - 2 - 2 - 2 - 2 - 1 = ea - 9 := by bv_omega
  have h := ((((h.push16_below hd hsp r).push16_below (by simp [hd]) (by simp [hsp]) t.y).push16_below (by simp [hd])
    (by simp [hsp]) t.x).push16_below (by simp [hd]) (by simp [hsp]) (Machine.word t.b t.a)).push8_below (by simp [hd])
    (by simp [hsp]) t.ccr.toByte
  rw [e] at h
  simpa [State.stackFrame, State.frameBytes, wordBE_eq, ccr_toByte_eq] using h


/-- The interrupt frame: nine bytes below SP (60_exceptions.md R508). -/
theorem State.stackFrame_stored (s : State) (r : Word) : BytesStored s (s.stackFrame r) (s.sp - 9) (s.frameBytes r) := by
  simpa using (Stored.stackFrame_below (vs := []) rfl rfl (Stored.nil s) r).bytes

end Sys2Proof.Machine
end

