-- ==== Sys2Proof/Laws/Flags.lean ====
section
/-! SUPPORT. What the flag computations of Flags.lean and the shifts of Shift.lean come to, as facts about numbers. -/

namespace Sys2Proof.Machine

theorem isNeg_eq_msb {w : Nat} (v : BitVec w) : v.msb = isNeg v := by
  simp [isNeg, BitVec.msb_eq_toInt]

theorem isZero_eq {w : Nat} (v : BitVec w) : (v == 0) = isZero v := by
  simp only [isZero, beq_eq_decide, decide_eq_decide]
  constructor
  · rintro rfl; simp
  · intro h; exact BitVec.eq_of_toNat_eq (by simpa using h)

theorem Ccr.nz_eq {w : Nat} (c : Ccr) (v : BitVec w) : c.nz v = c.sign v := by
  simp only [Ccr.nz, Ccr.sign, isNeg_eq_msb, isZero_eq]

theorem Ccr.nzv0_eq {w : Nat} (c : Ccr) (v : BitVec w) : c.nzv0 v = c.moved v := by
  simp only [Ccr.nzv0, Ccr.moved, Ccr.nz_eq]

theorem addFlags_v8 (x y : Byte) (k : Bool) : (addFlags x y k).v = overflows 8 (x.toInt + y.toInt + k.toNat) := by
  have hx := x.isLt; have hy := y.isLt
  rw [Bool.eq_iff_iff]
  simp only [addFlags, overflows, BitVec.msb_eq_decide, BitVec.toInt_eq_toNat_cond, BitVec.toNat_ofNat,
    Bool.and_eq_true, beq_iff_eq, bne_iff_ne, ne_eq, decide_eq_true_eq, decide_eq_decide]
  cases k <;> simp only [Bool.toNat_true, Bool.toNat_false] <;> omega

theorem addFlags_v16 (x y : Word) (k : Bool) : (addFlags x y k).v = overflows 16 (x.toInt + y.toInt + k.toNat) := by
  have hx := x.isLt; have hy := y.isLt
  rw [Bool.eq_iff_iff]
  simp only [addFlags, overflows, BitVec.msb_eq_decide, BitVec.toInt_eq_toNat_cond, BitVec.toNat_ofNat,
    Bool.and_eq_true, beq_iff_eq, bne_iff_ne, ne_eq, decide_eq_true_eq, decide_eq_decide]
  cases k <;> simp only [Bool.toNat_true, Bool.toNat_false] <;> omega

theorem subFlags_v8 (x y : Byte) (k : Bool) : (subFlags x y k).v = overflows 8 (x.toInt - y.toInt - k.toNat) := by
  have hx := x.isLt; have hy := y.isLt
  rw [Bool.eq_iff_iff]
  cases k <;> simp [subFlags, overflows, BitVec.msb_eq_decide, BitVec.toInt_eq_toNat_cond, BitVec.toNat_sub] <;> omega

theorem subFlags_v16 (x y : Word) (k : Bool) : (subFlags x y k).v = overflows 16 (x.toInt - y.toInt - k.toNat) := by
  have hx := x.isLt; have hy := y.isLt
  rw [Bool.eq_iff_iff]
  cases k <;> simp [subFlags, overflows, BitVec.msb_eq_decide, BitVec.toInt_eq_toNat_cond, BitVec.toNat_sub] <;> omega

theorem subFlags_res8 (x y : Byte) (k : Bool) :
    (subFlags x y k).res = BitVec.ofInt 8 (x.toInt - y.toInt - k.toNat) := by
  apply BitVec.eq_of_toNat_eq
  have hx := x.isLt; have hy := y.isLt
  cases k <;> simp [subFlags, BitVec.toNat_sub, BitVec.toNat_ofInt, BitVec.toInt_eq_toNat_cond] <;>
    (split <;> split <;> omega)

theorem subFlags_res16 (x y : Word) (k : Bool) :
    (subFlags x y k).res = BitVec.ofInt 16 (x.toInt - y.toInt - k.toNat) := by
  apply BitVec.eq_of_toNat_eq
  have hx := x.isLt; have hy := y.isLt
  cases k <;> simp [subFlags, BitVec.toNat_sub, BitVec.toNat_ofInt, BitVec.toInt_eq_toNat_cond] <;>
    (split <;> split <;> omega)

/-- The 8-bit addition with all its flags. -/
theorem hnzvc_addFlags (c : Ccr) (x y : Byte) (k : Bool) : c.hnzvc (addFlags x y k) = c.summedH x y k.toNat := by
  have h := addFlags_v8 x y k
  simp only [Ccr.hnzvc, Ccr.summedH, Ccr.summed, Ccr.sign, h]
  simp only [addFlags, isNeg_eq_msb, isZero_eq]
  congr 1

/-- The 16-bit addition with all its flags. -/
theorem nzvc_addFlags16 (c : Ccr) (x y : Word) (k : Bool) : c.nzvc (addFlags x y k) = c.summed x y k.toNat := by
  have h := addFlags_v16 x y k
  simp only [Ccr.nzvc, Ccr.summed, Ccr.sign, h]
  simp only [addFlags, isNeg_eq_msb, isZero_eq]

/-- The 8-bit subtraction with all its flags. -/
theorem nzvc_subFlags8 (c : Ccr) (x y : Byte) (k : Bool) : c.nzvc (subFlags x y k) = c.subtracted x y k.toNat := by
  have h := subFlags_v8 x y k
  have hr := subFlags_res8 x y k
  have hn : (subFlags x y k).n = (subFlags x y k).res.msb := rfl
  have hz : (subFlags x y k).z = ((subFlags x y k).res == 0) := rfl
  simp only [Ccr.nzvc, Ccr.subtracted, Ccr.sign, h, hn, hz, hr, isNeg_eq_msb, isZero_eq]
  rfl

/-- The 16-bit subtraction with all its flags. -/
theorem nzvc_subFlags16 (c : Ccr) (x y : Word) (k : Bool) : c.nzvc (subFlags x y k) = c.subtracted x y k.toNat := by
  have h := subFlags_v16 x y k
  have hr := subFlags_res16 x y k
  have hn : (subFlags x y k).n = (subFlags x y k).res.msb := rfl
  have hz : (subFlags x y k).z = ((subFlags x y k).res == 0) := rfl
  simp only [Ccr.nzvc, Ccr.subtracted, Ccr.sign, h, hn, hz, hr, isNeg_eq_msb, isZero_eq]
  rfl

/-- What `write_ccr` leaves, bit by bit. -/
theorem Ccr.write_eq (c : Ccr) (v : Byte) : c.write v = c.fromData v := by
  have hb : ∀ k, v.getLsbD k = decide (v.toNat / 2 ^ k % 2 = 1) := fun k => by
    rw [BitVec.getLsbD, Nat.testBit_eq_decide_div_mod_eq]
  simp only [Ccr.write, Ccr.ofByte, Ccr.fromData, hb]
  simp

/-- The CCR as a byte and as a number. -/
theorem Ccr.toByte_toNat (c : Ccr) : c.toByte.toNat = c.nat := by
  obtain ⟨s, x, h, i, n, z, v, c⟩ := c
  cases s <;> cases x <;> cases h <;> cases i <;> cases n <;> cases z <;> cases v <;> cases c <;> rfl

theorem Ccr.nat_lt (c : Ccr) : c.nat < 256 := by rw [← Ccr.toByte_toNat]; exact c.toByte.isLt

/-- A CCR written with its own byte is itself. -/
theorem Ccr.fromData_nat (c : Ccr) : c.fromData (BitVec.ofNat 8 c.nat) = c := by
  obtain ⟨s, x, h, i, n, z, v, c⟩ := c
  cases s <;> cases x <;> cases h <;> cases i <;> cases n <;> cases z <;> cases v <;> cases c <;> rfl

theorem shl_res {w : Nat} (v : BitVec w) (cin : Bool) : (shl v).res = ShiftKind.left.res cin v := by
  apply BitVec.eq_of_toNat_eq
  simp [shl, ShiftKind.res, Nat.shiftLeft_eq, Nat.mul_comm]

theorem shl_out8 (v : Byte) : (shl v).cout = ShiftKind.left.out v := by
  simp only [shl, ShiftKind.out, BitVec.msb_eq_decide, decide_eq_decide]
  have := v.isLt
  omega

theorem shl_out16 (v : Word) : (shl v).cout = ShiftKind.left.out v := by
  simp only [shl, ShiftKind.out, BitVec.msb_eq_decide, decide_eq_decide]
  have := v.isLt
  omega

theorem odd_out {w : Nat} (v : BitVec w) : v.getLsbD 0 = decide (v.toNat % 2 = 1) := by
  rw [BitVec.getLsbD, Nat.testBit_eq_decide_div_mod_eq]; simp

theorem lsr_res {w : Nat} (v : BitVec w) (cin : Bool) : (lsr v).res = ShiftKind.logicalRight.res cin v := by
  apply BitVec.eq_of_toNat_eq
  have := v.isLt
  simp [lsr, ShiftKind.res, Nat.shiftRight_eq_div_pow]
  rw [Nat.mod_eq_of_lt (by omega)]

theorem asr_res {w : Nat} (v : BitVec w) (cin : Bool) : (asr v).res = ShiftKind.arithmeticRight.res cin v := by
  simp [asr, ShiftKind.res, BitVec.sshiftRight, Int.shiftRight_eq_div_pow]

theorem rol_res8 (v : Byte) (cin : Bool) : (rol cin v).res = ShiftKind.rotateLeft.res cin v := by
  cases cin <;> (revert v; decide)

theorem ror_res8 (v : Byte) (cin : Bool) : (ror cin v).res = ShiftKind.rotateRight.res cin v := by
  cases cin <;> (revert v; decide)

/-- The flags of a shift. -/
theorem shiftFlags_eq {w : Nat} (c : Ccr) (r : BitVec w) (out : Bool) :
    c.setNzvc r.msb (r == 0) (r.msb ^^ out) out = c.shifted r out := by
  simp only [Ccr.setNzvc, Ccr.shifted, Ccr.sign, isNeg_eq_msb, isZero_eq]

end Sys2Proof.Machine
end

