-- ==== Sys2Proof/Laws/Operands.lean ====
section
/-! SUPPORT. What forming an operand's address leaves alone, what an in-place instruction does, and where a relative branch
goes. -/

namespace Sys2Proof.Machine

/-- Forming an address changes nothing that a read of no device register sees. -/
theorem Idx_side_readByte (i : Idx) (p : Word) (s : State) {a : Word} (h : s.NotRegister a) :
    (i.side p s).readByte a = s.readByte a :=
  State.readByte_frame (by simp) (by simp) (by simp) a (.inl h)

/-- Where no pointer is read, forming an address leaves the devices alone. -/
theorem Idx_side_devices {i : Idx} (h1 : ∀ r n, i ≠ .ind16 r n) (h2 : ∀ r, i ≠ .indD r) (p : Word) (s : State) :
    (i.side p s).devices = s.devices := by
  cases i <;> simp_all [Idx.side]

/-- An instruction that completes and writes nothing. -/
theorem CompletesInto.of {i : Instr} {s t : State} (h : exec i s = .next t) (hp : t.ppage = s.ppage) (hd : t.dev = s.dev)
    (hm : t.mem = s.mem) : CompletesInto i s t :=
  ⟨h, State.readByte_frame hp hd hm⟩

/-- An in-place operation whose flags are `g` of the byte: everything it does, one read and then one write
(20_memory.md R65). -/
theorem modify8_stores {f : Byte → Byte} {flags : Byte → State → State} {g : Byte → Ccr → Ccr}
    (hg : ∀ m t, flags m t = { t with ccr := g m t.ccr }) (ea : Word) (u : State) (p : Word) :
    let t := { modify8 f flags ea u with pc := p }
    t = { u with ccr := g (u.readByte ea) u.ccr, pc := p, mem := t.mem, ppage := t.ppage, devices := t.devices, writeLimit := t.writeLimit } ∧
      BytesStored (u.touch ea) t ea [f (u.readByte ea)] := by
  refine ⟨by simp [modify8, hg], ?_⟩
  refine (State.writeByte_stored (u.touch ea) ea _).congr rfl rfl rfl rfl rfl ?_ ?_ ?_ ?_ ?_ <;> simp [modify8, hg]

/-- An in-place instruction with an extended or indexed operand. -/
theorem withExtIdx_modify {f : Byte → Byte} {flags : Byte → State → State} {g : Byte → Ccr → Ccr}
    (hg : ∀ m t, flags m t = { t with ccr := g m t.ccr }) (i : ExtIdx) (s : State) :
    let p := s.npc (1 + i.len)
    let ea := i.ea p s
    let u := i.side p s
    let m := u.readByte ea
    ∃ t, withExtIdx i (modify8 f flags) s = .next t ∧
      t = { u with ccr := g m s.ccr, pc := p, mem := t.mem, ppage := t.ppage, devices := t.devices, writeLimit := t.writeLimit } ∧
      BytesStored { u.touch ea with ccr := g m s.ccr, pc := p } t ea [f m] := by
  intro p ea u m
  have h := modify8_stores (f := f) hg ea u p
  rw [show u.ccr = s.ccr by simp [u]] at h
  exact ⟨_, rfl, h.1, h.2.congr rfl rfl rfl rfl rfl rfl rfl rfl rfl rfl⟩

/-- An in-place instruction with a direct, extended or indexed operand and `k` bytes besides the operand's. -/
theorem withMemOp_modify {f : Byte → Byte} {flags : Byte → State → State} {g : Byte → Ccr → Ccr}
    (hg : ∀ m t, flags m t = { t with ccr := g m t.ccr }) (k : Nat) (i : MemOp) (s : State) :
    let p := s.npc (k + i.len)
    let ea := i.ea p s
    let u := i.side p s
    let m := u.readByte ea
    ∃ t, withMemOp k i (modify8 f flags) s = .next t ∧
      t = { u with ccr := g m s.ccr, pc := p, mem := t.mem, ppage := t.ppage, devices := t.devices, writeLimit := t.writeLimit } ∧
      BytesStored { u.touch ea with ccr := g m s.ccr, pc := p } t ea [f m] := by
  intro p ea u m
  have h := modify8_stores (f := f) hg ea u p
  rw [show u.ccr = s.ccr by simp [u]] at h
  exact ⟨_, rfl, h.1, h.2.congr rfl rfl rfl rfl rfl rfl rfl rfl rfl rfl⟩

theorem zext8_eq (v : Byte) : zext8 v = BitVec.ofNat 16 v.toNat := by
  apply BitVec.eq_of_toNat_eq; simp [zext8]

theorem npc_eq (s : State) (n : Nat) : s.npc n = BitVec.ofInt 16 (s.pc.toNat + n) := by
  rw [BitVec.ofInt_add, BitVec.ofInt_natCast, BitVec.ofNat_toNat, BitVec.setWidth_eq, BitVec.ofInt_natCast]; rfl

theorem word_eq_ofInt (p : Word) : p = BitVec.ofInt 16 p.toNat := by
  rw [BitVec.ofInt_natCast, BitVec.ofNat_toNat, BitVec.setWidth_eq]

/-- Where a short branch goes (30_encoding.md R97). -/
theorem branch8_target (s : State) (n : Nat) (rr : Byte) (b : Bool) :
    (if b = true then s.npc n + sext8 rr else s.npc n) = BitVec.ofInt 16 (s.pc.toNat + n + if b then rr.toInt else 0) := by
  cases b <;> rw [npc_eq]
  · simp
  · simp only [if_true]; rw [BitVec.ofInt_add (x := _ + _)]; rfl

/-- Where a loop primitive goes (30_encoding.md R97). -/
theorem branch9_target (s : State) (n : Nat) (off : BitVec 9) (b : Bool) :
    (if b = true then s.npc n + sext9 off else s.npc n) = BitVec.ofInt 16 (s.pc.toNat + n + if b then off.toInt else 0) := by
  cases b <;> rw [npc_eq]
  · simp
  · simp only [if_true]; rw [BitVec.ofInt_add (x := _ + _)]; rfl

/-- Where a long branch goes (30_encoding.md R97). -/
theorem branch16_target (s : State) (n : Nat) (qqrr : Word) (b : Bool) :
    (if b = true then s.npc n + qqrr else s.npc n) = BitVec.ofInt 16 (s.pc.toNat + n + if b then qqrr.toInt else 0) := by
  cases b <;> rw [npc_eq]
  · simp
  · simp only [if_true]; rw [BitVec.ofInt_add (x := _ + _), BitVec.ofInt_toInt]

end Sys2Proof.Machine
end

