-- ==== Sys2Proof/Laws/Control.lean ====
section
/-! SUPPORT. What taking an exception, calling, the branch shapes and the passes of WAV can do. -/

namespace Sys2Proof.Machine

@[simp] theorem enterHandler_eq (s : State) (target : Word) (setX : Bool) :
    s.enterHandler target setX = { s.entered target setX with sp := s.sp } := rfl

@[simp] theorem State.touch_frameBytes (s : State) (a ret : Word) : (s.touch a).frameBytes ret = s.frameBytes ret := rfl
@[simp] theorem State.touchWord_frameBytes (s : State) (a ret : Word) :
    (s.touchWord a).frameBytes ret = s.frameBytes ret := rfl

/-- The frame stacked and the handler at `target` entered. -/
theorem stackFrame_enter_stores (s : State) (target ret : Word) (setX : Bool) :
    let t := (s.stackFrame ret).enterHandler target setX
    SameButMemory (s.entered target setX) t ∧
      BytesStored (s.entered target setX) t (s.sp - 9) (s.frameBytes ret) := by
  refine ⟨by simp [SameButMemory, State.entered], ?_⟩
  exact (State.stackFrame_stored s ret).congr rfl rfl rfl rfl rfl rfl rfl rfl rfl rfl

/-- Taking an exception: the vector read, nine bytes stacked, the handler entered (60_exceptions.md R506, R508, R509). -/
theorem exceptionEntry_stores (s : State) (vector ret : Word) (setX : Bool) :
    let t := s.exceptionEntry vector ret setX
    SameButMemory (s.vectored vector setX) t ∧ BytesStored (s.vectored vector setX) t (s.sp - 9) (s.frameBytes ret) :=
  stackFrame_enter_stores (s.touchWord vector) (s.readWord vector) ret setX

theorem enterHandler_inv {s : State} (h : s.Inv) (target : Word) (setX : Bool) : (s.enterHandler target setX).Inv := h

theorem enterHandler_wf {s : State} (h : s.mem.wf = true) (target : Word) (setX : Bool) :
    (s.enterHandler target setX).mem.wf = true := h

theorem exceptionEntry_inv {s : State} (h : s.Inv) (vector ret : Word) (setX : Bool) :
    (s.exceptionEntry vector ret setX).Inv :=
  enterHandler_inv (State.stackFrame_inv (s := s.touchWord vector) h ret) _ _

theorem exceptionEntry_wf {s : State} (h : s.mem.wf = true) (vector ret : Word) (setX : Bool) :
    (s.exceptionEntry vector ret setX).mem.wf = true :=
  enterHandler_wf (State.stackFrame_wf (s := s.touchWord vector) h ret) _ _

/-- CALL: the page selected, three bytes stacked (46_jump_call_stack.md R447). -/
theorem call_stores (s : State) (npc target : Word) (page : Byte) :
    let base := { s with ppage := page, sp := s.sp - 3, pc := target }
    let t := s.call npc target page
    SameButMemory base t ∧ BytesStored base t (s.sp - 3) (s.ppage :: wordBE npc) := by
  have e : s.sp - 2 - 1 = s.sp - 3 := by bv_omega
  refine ⟨by simp [SameButMemory, State.call]; bv_omega, ?_⟩
  have h := (((Stored.nil { s with ppage := page }).push16_below (vs := []) rfl rfl npc).push8_below (by simp) (by simp)
    s.ppage).bytes
  rw [List.append_nil, e] at h
  exact h.congr rfl rfl rfl rfl rfl rfl rfl rfl rfl rfl

/-- A short branch (45_branch.md R383). -/
theorem shortBranch_eq (cond : Bool) (rr : Byte) (s : State) : shortBranch cond rr s =
    .next { s with pc := BitVec.ofInt 16 (s.pc.toNat + 2 + if cond then rr.toInt else 0) } := by
  rw [shortBranch, branch8_target]; rfl

/-- A long branch (45_branch.md R402). -/
theorem longBranch_eq (cond : Bool) (qqrr : Word) (s : State) : longBranch cond qqrr s =
    .next { s with pc := BitVec.ofInt 16 (s.pc.toNat + 4 + if cond then qqrr.toInt else 0) } := by
  rw [longBranch, branch16_target]; rfl

theorem interruptWav_wf {s : State} (h : s.mem.wf = true) (here : Word) (q : Request) :
    (s.interruptWav here q).mem.wf = true := by
  unfold State.interruptWav
  refine exceptionEntry_wf ?_ _ _ _
  have e : ∀ u : State, u.mem.wf = true → u.freeHnzvc.mem.wf = true := fun u hu => hu
  exact e _ (State.push16_wf (State.push16_wf (State.push16_wf h _) _) _)

theorem interruptWav_inv {s : State} (h : s.Inv) (here : Word) (q : Request) : (s.interruptWav here q).Inv := by
  unfold State.interruptWav
  refine exceptionEntry_inv ?_ _ _ _
  have e : ∀ u : State, u.Inv → u.freeHnzvc.Inv := fun u hu => hu
  exact e _ (State.push16_inv (State.push16_inv (State.push16_inv h _) _) _)

theorem cutShort_interruptWav_wf {s : State} (h : s.mem.wf = true) (here : Word) (q : Request)
    (l : Option (ResetSource × Nat)) : (s.cutShort l fun w => w.interruptWav here q).mem.wf = true := by
  unfold State.cutShort
  split
  · exact interruptWav_wf h _ _
  · next n => exact interruptWav_wf (s := { s with writeLimit := some n }) h here q

theorem cutShort_interruptWav_inv {s : State} (h : s.Inv) (here : Word) (q : Request)
    (l : Option (ResetSource × Nat)) : (s.cutShort l fun w => w.interruptWav here q).Inv := by
  refine ⟨cutShort_interruptWav_wf h.1 _ _ _, ?_⟩
  unfold State.cutShort
  split
  · exact (interruptWav_inv h _ _).2
  · rfl

/-- Each pass of WAV keeps the canonical form of memory, whatever the environment asks for. -/
theorem wavLoop_wf (here npc : Word) (k : Nat) {s : State} (h : s.mem.wf = true) :
    (wavLoop here npc k s).mem.wf = true := by
  induction k generalizing s with
  | zero =>
    unfold wavLoop; dsimp only
    split
    · exact h
    · split
      · refine cutShort_interruptWav_wf ?_ _ _ _; exact h
      · split <;> exact h
  | succ k ih =>
    unfold wavLoop; dsimp only
    split
    · exact h
    · split
      · refine cutShort_interruptWav_wf ?_ _ _ _; exact h
      · split
        · exact h
        · refine ih ?_; exact h

/-- Each pass of WAV keeps a good state good. -/
theorem wavLoop_inv (here npc : Word) (k : Nat) {s : State} (h : s.Inv) : (wavLoop here npc k s).Inv := by
  induction k generalizing s with
  | zero =>
    unfold wavLoop; dsimp only
    split
    · exact h
    · split
      · refine cutShort_interruptWav_inv ?_ _ _ _; exact h
      · split <;> first | exact h | exact ⟨h.1, rfl⟩
  | succ k ih =>
    unfold wavLoop; dsimp only
    split
    · exact h
    · split
      · refine cutShort_interruptWav_inv ?_ _ _ _; exact h
      · split
        · exact ⟨h.1, rfl⟩
        · refine ih ?_; exact h

/-- WAV and wavr leave the device parameters alone. -/
theorem wavLoop_dev (here npc : Word) (k : Nat) (s : State) : (wavLoop here npc k s).dev = s.dev := by
  have hi : ∀ (u : State) (q : Request), (u.interruptWav here q).dev = u.dev := fun u q => by
    simp [State.interruptWav, State.exceptionEntry, State.entered, State.freeHnzvc]
  have hc : ∀ (u : State) (q : Request) (l), (u.cutShort l fun w => w.interruptWav here q).dev = u.dev := fun u q l => by
    unfold State.cutShort
    split
    · exact hi u q
    · exact hi _ q
  induction k generalizing s with
  | zero =>
    unfold wavLoop; dsimp only
    split
    · rfl
    · split
      · exact hc _ _ _
      · split <;> rfl
  | succ k ih =>
    unfold wavLoop; dsimp only
    split
    · rfl
    · split
      · exact hc _ _ _
      · split
        · rfl
        · rw [ih]; rfl

/-- One antecedent or consequent of a rule list keeps the canonical form. -/
theorem ruleElement_wf {s : State} (h : s.mem.wf = true) (fa : Word) (f : Byte) : (s.ruleElement fa f).mem.wf = true := by
  unfold State.ruleElement State.raiseOutput State.lowerTruth
  split <;> split <;> first | exact h | exact State.writeByte_wf h _ _

theorem ruleElement_inv {s : State} (h : s.Inv) (fa : Word) (f : Byte) : (s.ruleElement fa f).Inv := by
  unfold State.ruleElement State.raiseOutput State.lowerTruth
  split <;> split <;> first | exact h | exact State.writeByte_inv h _ _

@[simp] theorem ruleElement_dev (s : State) (fa : Word) (f : Byte) : (s.ruleElement fa f).dev = s.dev := by
  unfold State.ruleElement State.raiseOutput State.lowerTruth
  split <;> split <;> simp

/-! ### The passes of WAV -/

/-- The states agree on what a read answers and does. -/
def Alike (s t : State) : Prop := t.ppage = s.ppage ∧ t.dev = s.dev ∧ t.mem = s.mem ∧ t.devices = s.devices

theorem Alike.readByte {s t : State} (h : Alike s t) (a : Word) : t.readByte a = s.readByte a :=
  State.readByte_congr h.1 h.2.1 h.2.2.1 h.2.2.2 a

theorem Alike.touch {s t : State} (h : Alike s t) (a : Word) : Alike (s.touch a) (t.touch a) :=
  ⟨h.1, h.2.1, h.2.2.1, State.afterRead_congr h.1 h.2.1 h.2.2.2 a⟩

/-- Reading pairs changes the devices alone. -/
theorem pairsRead_eq (s : State) (k : Nat) : s.pairsRead k = { s with devices := (s.pairsRead k).devices } := by
  induction k with
  | zero => rfl
  | succ k ih => rw [State.pairsRead, ih]; rfl

theorem next_address (w : Word) (k : Nat) : w + 1 + BitVec.ofNat 16 k = w + BitVec.ofNat 16 (k + 1) := by
  rw [BitVec.ofNat_add, BitVec.add_assoc, BitVec.add_comm 1]; rfl

/-- The pairs after the first, seen from the state after the first. -/
theorem pairsRead_shift {s t : State} (h : Alike s.pairTaken t) (hx : t.x = s.x + 1) (hy : t.y = s.y + 1) (k : Nat) :
    Alike (s.pairsRead (k + 1)) (t.pairsRead k) := by
  induction k with
  | zero =>
    simp only [State.pairsRead, BitVec.add_zero]
    exact ⟨h.1, h.2.1, h.2.2.1, h.2.2.2⟩
  | succ k ih =>
    rw [State.pairsRead, show t.pairsRead (k + 1) =
      ((t.pairsRead k).touch (t.y + BitVec.ofNat 16 k)).touch (t.x + BitVec.ofNat 16 k) from rfl, hx, hy, next_address,
      next_address]
    exact (ih.touch _).touch _

/-- The state `k` passes of WAV without a request later: the sums of `k` pairs added, the samples of `k` boundaries used. -/
def State.wavPassed (s : State) (k : Nat) (rest : List Inputs) : State :=
  let sop : BitVec 32 := (s.tmp1 ++ s.tmp2) + BitVec.ofNat 32 (s.sumOfProducts k)
  { s with
    b := s.b - BitVec.ofNat 8 k, x := s.x + BitVec.ofNat 16 k, y := s.y + BitVec.ofNat 16 k
    tmp1 := sop.extractLsb' 16 16, tmp2 := sop.extractLsb' 0 16, tmp3 := s.tmp3 + BitVec.ofNat 16 (s.sumOfWeights k)
    inputs := rest, devices := (s.pairsRead k).devices }

/-- The two halves of a 32-bit number. -/
theorem extract_append32 (v : BitVec 32) : v.extractLsb' 16 16 ++ v.extractLsb' 0 16 = v := by
  apply BitVec.eq_of_getLsbD_eq; intro i hi
  simp only [BitVec.getLsbD_append, BitVec.getLsbD_extractLsb']
  split
  · next h => simp [h]
  · next h => simp [show i - 16 < 16 by omega, show 16 + (i - 16) = i by omega]

theorem extract_hi (a b : Word) : (a ++ b : BitVec 32).extractLsb' 16 16 = a := by
  apply BitVec.eq_of_getLsbD_eq; intro i hi
  simp only [BitVec.getLsbD_extractLsb', BitVec.getLsbD_append, hi, decide_true, Bool.true_and]
  rw [if_neg (by omega)]; congr 1; omega

theorem extract_lo (a b : Word) : (a ++ b : BitVec 32).extractLsb' 0 16 = b := by
  apply BitVec.eq_of_getLsbD_eq; intro i hi
  simp only [BitVec.getLsbD_extractLsb', BitVec.getLsbD_append, hi, decide_true, Bool.true_and]
  rw [if_pos (by omega)]; congr 1; omega

/-- One pair more in the sums of WAV: the first pair and those after it. -/
theorem sums_succ {s t : State} (h : Alike s.pairTaken t) (hx : t.x = s.x + 1) (hy : t.y = s.y + 1) (k : Nat) :
    s.sumOfProducts (k + 1) =
      (s.readByte s.y).toNat * ((s.touch s.y).readByte s.x).toNat + t.sumOfProducts k ∧
    s.sumOfWeights (k + 1) = (s.readByte s.y).toNat + t.sumOfWeights k := by
  have e1 : ∀ j, s.pairOutput (j + 1) = t.pairOutput j := fun j => by
    rw [State.pairOutput, State.pairOutput, hy, next_address, (pairsRead_shift h hx hy j).readByte]
  have e2 : ∀ j, s.pairSingleton (j + 1) = t.pairSingleton j := fun j => by
    rw [State.pairSingleton, State.pairSingleton, hx, hy, next_address, next_address,
      ((pairsRead_shift h hx hy j).touch _).readByte]
  have e3 : s.pairOutput 0 = (s.readByte s.y).toNat := by simp [State.pairOutput, State.pairsRead]
  have e4 : s.pairSingleton 0 = ((s.touch s.y).readByte s.x).toNat := by simp [State.pairSingleton, State.pairsRead]
  simp only [State.sumOfProducts, State.sumOfWeights, List.range_succ_eq_map, List.map_cons, List.map_map,
    List.sum_cons, Function.comp_def, e1, e2, e3, e4, Nat.succ_eq_add_one]
  exact ⟨trivial, trivial⟩

/-- A pass of WAV at which nothing is requested: the pair is accumulated. -/
theorem wavLoop_pass (here npc : Word) (K : Nat) {s : State} {p : Inputs} {rest : List Inputs} (hi : s.inputs = p :: rest)
    (hp : p.NoReset) (hn : s.interruptPending p = none) : wavLoop here npc (K + 1) s =
      wavLoop here npc K (({ s.pairTaken with inputs := rest } : State).accumulate (s.readByte s.y)
        ((s.touch s.y).readByte s.x)) := by
  have h0 : s.pairTaken.input = p := by simp [State.input, hi]
  have h1 : s.pairTaken.popInput.interruptPending p = none := hn
  have h2 : s.pairTaken.popInput = { s.pairTaken with inputs := rest } := by simp [State.popInput, hi]
  conv_lhs => unfold wavLoop
  dsimp only
  rw [h0, hp.1]; dsimp only
  rw [h1]; dsimp only
  rw [hp.2]; dsimp only
  rw [h2]

/-- Passes of WAV at which nothing is requested (44_fuzzy_minmax_table.md R351). -/
theorem wavLoop_passes (here npc : Word) (before : List Inputs) (rest : List Inputs) :
    ∀ (K : Nat) (s : State), s.inputs = before ++ rest → (∀ p ∈ before, p.NoReset ∧ s.interruptPending p = none) →
    before.length ≤ K → wavLoop here npc K s = wavLoop here npc (K - before.length) (s.wavPassed before.length rest) := by
  induction before with
  | nil =>
    intro K s hi hq hk
    have : s.wavPassed 0 rest = s := by
      simp only [State.wavPassed, State.sumOfProducts, State.sumOfWeights, List.range_zero, List.map_nil, List.sum_nil]
      simp only [List.nil_append] at hi
      rw [← hi]
      simp [extract_hi, extract_lo, State.pairsRead]
    simp [this]
  | cons p before ih =>
    intro K s hi hq hk
    obtain ⟨hp, hpend⟩ := hq p (by simp)
    simp only [List.length_cons] at hk
    obtain ⟨K, rfl⟩ : ∃ k, K = k + 1 := ⟨K - 1, by omega⟩
    set fi := s.readByte s.y with hfi
    set si := (s.touch s.y).readByte s.x with hsi
    obtain ⟨t, ht⟩ : ∃ t, t = ({ s.pairTaken with inputs := before ++ rest } : State).accumulate fi si := ⟨_, rfl⟩
    have hx : t.x = s.x + 1 := by rw [ht]; rfl
    have hy : t.y = s.y + 1 := by rw [ht]; rfl
    have hA : Alike s.pairTaken t := by rw [ht]; exact ⟨rfl, rfl, rfl, rfl⟩
    have et1 : t.tmp1 ++ t.tmp2 = (s.tmp1 ++ s.tmp2) + BitVec.ofNat 32 (si.toNat * fi.toNat) := by
      rw [ht]; simp only [State.accumulate]; exact extract_append32 _
    have et3 : t.tmp3 = s.tmp3 + zext8 fi := by rw [ht]; rfl
    have eb : t.b = s.b - 1 := by rw [ht]; rfl
    have h0 : wavLoop here npc (K + 1) s = wavLoop here npc K t := by
      rw [ht]; exact wavLoop_pass here npc K hi hp hpend
    rw [h0, ih K t (by rw [ht]; rfl) (fun q hq' => by rw [ht]; exact hq q (by simp [hq'])) (by omega)]
    rw [show K + 1 - (p :: before).length = K - before.length by simp]
    congr 1
    obtain ⟨h1, h2⟩ := sums_succ hA hx hy before.length
    have e8 : s.b - 1 - BitVec.ofNat 8 before.length = s.b - BitVec.ofNat 8 (before.length + 1) := by
      rw [BitVec.ofNat_add]; bv_omega
    have ed : (t.pairsRead before.length).devices = (s.pairsRead (before.length + 1)).devices :=
      (pairsRead_shift hA hx hy before.length).2.2.2
    have hs : s.tmp1 ++ s.tmp2 + BitVec.ofNat 32 (si.toNat * fi.toNat) + BitVec.ofNat 32 (t.sumOfProducts before.length) =
        s.tmp1 ++ s.tmp2 + BitVec.ofNat 32 (fi.toNat * si.toNat + t.sumOfProducts before.length) := by
      rw [BitVec.ofNat_add, BitVec.add_assoc, Nat.mul_comm]
    have hw : s.tmp3 + zext8 fi + BitVec.ofNat 16 (t.sumOfWeights before.length) =
        s.tmp3 + BitVec.ofNat 16 (fi.toNat + t.sumOfWeights before.length) := by
      rw [BitVec.ofNat_add, BitVec.add_assoc, zext8_eq]
    simp only [State.wavPassed, List.length_cons, h1, h2, et1, et3, ed, hs, hw, ← hfi, ← hsi, hx, hy, eb, next_address, e8]
    subst ht; rfl

/-- The interrupt exit of WAV: the sums stacked, the vector read, the frame stacked, fifteen bytes (R352). -/
theorem interruptWav_stores (s : State) (here : Word) (q : Request) :
    let u := ((s.push16 s.tmp3).push16 s.tmp2).push16 s.tmp1
    let f := s.freeHnzvc
    let base := { (f.touchWord q.vector).entered (u.readWord q.vector) q.isXirq with sp := s.sp - 15 }
    let t := s.interruptWav here q
    SameButMemory base t ∧
      BytesStored base t (s.sp - 15) (f.frameBytes here ++ wordBE s.tmp1 ++ wordBE s.tmp2 ++ wordBE s.tmp3) := by
  intro u f base t
  have e15 : s.sp - 2 - 2 - 2 - 9 = s.sp - 15 := by bv_omega
  have h := (((Stored.nil s).push16_below (vs := []) rfl rfl s.tmp3).push16_below (by simp) (by simp) s.tmp2).push16_below
    (by simp) (by simp) s.tmp1
  have hw : u.freeHnzvc.readWord q.vector = u.readWord q.vector := rfl
  have hf : (u.freeHnzvc.touchWord q.vector).frameBytes here = f.frameBytes here := by
    simp [u, f, State.frameBytes, State.freeHnzvc, State.freeBit]
  refine ⟨?_, ?_⟩
  · simp [t, base, State.interruptWav, State.exceptionEntry, f, u, State.freeBit, hw]
    exact e15
  · have h' : Stored f u.freeHnzvc _ := h.congr rfl rfl rfl rfl rfl rfl rfl rfl rfl rfl
    have h2 := ((h'.touchWord (by simp [u, f, State.freeHnzvc]) q.vector).stackFrame_below (by simp [u, f, State.freeHnzvc])
      (ea := s.sp - 2 - 2 - 2) (by simp [u, State.freeHnzvc]) here).bytes
    rw [e15, hf] at h2
    have h3 : BytesStored base t (s.sp - 15) _ := h2.congr rfl rfl rfl rfl rfl rfl rfl rfl rfl rfl
    simpa using h3

/-- A pass of WAV at which an interrupt is requested and no reset (R352). -/
theorem wavLoop_stop (here npc : Word) (K : Nat) {s : State} {q : Inputs} {rest : List Inputs} {r : Request}
    (hi : s.inputs = q :: rest) (hn : q.NoReset) (hp : s.interruptPending q = some r) :
    wavLoop here npc K s = ({ s.pairTaken with inputs := rest } : State).interruptWav here r := by
  have h0 : s.pairTaken.input = q := by simp [State.input, hi]
  have h1 : s.pairTaken.popInput.interruptPending q = some r := hp
  have h2 : s.pairTaken.popInput = { s.pairTaken with inputs := rest } := by simp [State.popInput, hi]
  cases K <;> (unfold wavLoop; dsimp only; rw [h0, hn.1]; dsimp only; rw [h1]; dsimp only; rw [hn.2, h2]; rfl)

/-! ### Which request is selected -/

theorem mem_irqRequests {s : State} {q : Inputs} {n : IrqSource} :
    n ∈ s.irqRequests q ↔ n ∈ s.dev.irqSources ∧ n.number ∈ q.irq := by simp [State.irqRequests]

/-- The member that the default priority selects: one of the list, with no higher vector in it; none of an empty list
(60_exceptions.md R510). -/
theorem highestIrq_cases (l : List IrqSource) :
    (l = [] ∧ highestIrq l = none) ∨ ∃ n ∈ l, highestIrq l = some n ∧ ∀ m ∈ l, m.vector ≤ n.vector := by
  induction l with
  | nil => exact .inl ⟨rfl, rfl⟩
  | cons n rest ih =>
    refine .inr ?_
    obtain ⟨rfl, h⟩ | ⟨k, hk, h, hmax⟩ := ih
    · exact ⟨n, by simp [highestIrq]⟩
    · rw [highestIrq, h]
      by_cases hlt : n.vector < k.vector
      · exact ⟨k, .tail _ hk, by simp [hlt], List.forall_mem_cons.2 ⟨hlt.le, hmax⟩⟩
      · exact ⟨n, .head _, by simp [hlt], List.forall_mem_cons.2 ⟨le_rfl, fun m hm => (hmax m hm).trans (not_lt.1 hlt)⟩⟩

/-- The selected member: a promoted one, or with none in the list the one of the default priority; none of an empty list
(60_exceptions.md R510, 92_eei_decisions.md D18). -/
theorem selectIrq_cases (promoted : Option Nat) (l : List IrqSource) :
    (l = [] ∧ selectIrq promoted l = none) ∨ ∃ n ∈ l, selectIrq promoted l = some n ∧
      (promoted = some n.number ∨ ∀ m ∈ l, promoted ≠ some m.number ∧ m.vector ≤ n.vector) := by
  unfold selectIrq
  cases h : l.find? fun n => promoted == some n.number with
  | some p => exact .inr ⟨p, List.mem_of_find?_eq_some h, rfl, .inl (by simpa using List.find?_some h)⟩
  | none =>
    have hn : ∀ m ∈ l, promoted ≠ some m.number := fun m hm => by simpa using List.find?_eq_none.1 h m hm
    exact (highestIrq_cases l).imp id fun ⟨n, hm, e, hmax⟩ => ⟨n, hm, e, .inr fun m h => ⟨hn m h, hmax m h⟩⟩

/-! ### Resets in the middle of a step, and the BDM host -/

theorem elapse_eq (s t : State) : s.elapse t = { t with devices := (s.elapse t).devices } := by
  unfold State.elapse; split <;> rfl

/-- The end of a step whose sample holds no reset: only the devices can differ. -/
theorem finish_quiet {s t : State} (h : s.input.late = none) : s.finish t = s.elapse t := by
  simp only [State.finish, h]

/-- The end of a step that a reset has cut short. -/
theorem finish_late {s t : State} {r : ResetSource} {n : Nat} (h : s.input.late = some (r, n)) :
    s.finish t = s.elapse (t.abandon r) := by
  simp only [State.finish, h]

/-- The BDM host's changes keep the canonical form, the limit on writes, the run state and the device parameters. -/
theorem bdmWrites_keep (l : List BdmWrite) {s : State} (h : s.mem.wf = true) :
    let t := l.foldl State.bdmWrite s
    t.mem.wf = true ∧ t.writeLimit = s.writeLimit ∧ t.run = s.run ∧ t.dev = s.dev ∧ t.inputs = s.inputs := by
  induction l generalizing s with
  | nil => exact ⟨h, rfl, rfl, rfl, rfl⟩
  | cons w l ih =>
    have hw : (s.bdmWrite w).mem.wf = true := by
      cases w <;> first | exact h | exact Memory.wf_write _ _ h
    obtain ⟨h1, h2, h3, h4, h5⟩ := ih hw
    refine ⟨h1, h2.trans ?_, h3.trans ?_, h4.trans ?_, h5.trans ?_⟩ <;> cases w <;> rfl

end Sys2Proof.Machine
end

