-- ==== Sys2Proof/Laws/PerInstr.lean ====
section
/-! SUPPORT. Per instruction: a well-formed instruction is one to six bytes long (30_encoding.md R92). -/

namespace Sys2Proof.Laws

theorem idx_bytes_length (i : Idx) : i.bytes.length = i.len := by
  cases i <;> rfl

theorem idx_len_bounds (i : Idx) : 1 ≤ i.len ∧ i.len ≤ 3 := by cases i <;> simp [Idx.len]

theorem idx_len_short {i : Idx} (h : i.isShort = true) : i.len = 1 := by
  cases i <;> simp [Idx.isShort, Idx.len] at *

/-- The number of bytes of an instruction. -/
def fits (l : List Byte) : Prop := 1 ≤ l.length ∧ l.length ≤ 6

theorem fits_fixed {l : List Byte} (h : (Nat.ble 1 l.length && Nat.ble l.length 6) = true) : fits l := by
  simp only [Bool.and_eq_true, Nat.ble_eq] at h; exact h

theorem fits_idx (a : Byte) (i : Idx) : fits (a :: i.bytes) := by
  have := idx_len_bounds i
  simp only [fits, List.length_cons, idx_bytes_length]; omega

theorem fits_idx1 (a b : Byte) (i : Idx) : fits (a :: i.bytes ++ [b]) := by
  have := idx_len_bounds i
  simp only [fits, List.length_cons, List.length_append, List.length_nil, idx_bytes_length]; omega

theorem fits_idx2 (a b c : Byte) (i : Idx) : fits (a :: i.bytes ++ [b, c]) := by
  have := idx_len_bounds i
  simp only [fits, List.length_cons, List.length_append, List.length_nil, idx_bytes_length]; omega

theorem fits_page2 (a b : Byte) (i : Idx) : fits ([a, b] ++ i.bytes) := by
  have := idx_len_bounds i
  simp only [fits, List.length_cons, List.length_append, List.length_nil, idx_bytes_length]; omega

theorem fits_move (a b : Byte) {i : Idx} (h : i.isShort = true) {l : List Byte} (hl : l.length ≤ 2) :
    fits ([a, b] ++ i.bytes ++ l) := by
  have := idx_len_short h
  simp only [fits, List.length_cons, List.length_append, List.length_nil, idx_bytes_length]; omega

theorem fits_move2 (a b : Byte) {i j : Idx} (h : i.isShort = true ∧ j.isShort = true) :
    fits ([a, b] ++ i.bytes ++ j.bytes) :=
  fits_move a b h.1 (by rw [idx_bytes_length, idx_len_short h.2]; decide)

/-- The instruction's encoding has one to six bytes. -/
def EncodedLength.Statement (i : Instr) : Prop := i.WellFormed → fits (encode i)

theorem EncodedLength.bgnd : EncodedLength.Statement (.bgnd) := fun _ => fits_fixed rfl
theorem EncodedLength.mem : EncodedLength.Statement (.mem) := fun _ => fits_fixed rfl
theorem EncodedLength.iny : EncodedLength.Statement (.iny) := fun _ => fits_fixed rfl
theorem EncodedLength.dey : EncodedLength.Statement (.dey) := fun _ => fits_fixed rfl
theorem EncodedLength.dbeq (r : LoopReg) (off : BitVec 9) : EncodedLength.Statement (.dbeq r off) := fun _ => fits_fixed rfl
theorem EncodedLength.dbne (r : LoopReg) (off : BitVec 9) : EncodedLength.Statement (.dbne r off) := fun _ => fits_fixed rfl
theorem EncodedLength.tbeq (r : LoopReg) (off : BitVec 9) : EncodedLength.Statement (.tbeq r off) := fun _ => fits_fixed rfl
theorem EncodedLength.tbne (r : LoopReg) (off : BitVec 9) : EncodedLength.Statement (.tbne r off) := fun _ => fits_fixed rfl
theorem EncodedLength.ibeq (r : LoopReg) (off : BitVec 9) : EncodedLength.Statement (.ibeq r off) := fun _ => fits_fixed rfl
theorem EncodedLength.ibne (r : LoopReg) (off : BitVec 9) : EncodedLength.Statement (.ibne r off) := fun _ => fits_fixed rfl
theorem EncodedLength.unassignedLoopPostbyte (lb : Byte) (rr : Byte) : EncodedLength.Statement (.unassignedLoopPostbyte lb rr) :=
  fun _ => fits_fixed rfl
theorem EncodedLength.jmp (ad : ExtIdx) : EncodedLength.Statement (.jmp ad) := by
  intro _
  cases ad
  exacts [fits_fixed rfl, fits_idx _ _]
theorem EncodedLength.bsr (rr : Byte) : EncodedLength.Statement (.bsr rr) := fun _ => fits_fixed rfl
theorem EncodedLength.inx : EncodedLength.Statement (.inx) := fun _ => fits_fixed rfl
theorem EncodedLength.dex : EncodedLength.Statement (.dex) := fun _ => fits_fixed rfl
theorem EncodedLength.rtc : EncodedLength.Statement (.rtc) := fun _ => fits_fixed rfl
theorem EncodedLength.rti : EncodedLength.Statement (.rti) := fun _ => fits_fixed rfl
theorem EncodedLength.bset (ad : MemOp) (mm : Byte) : EncodedLength.Statement (.bset ad mm) := by
  intro _
  cases ad
  exacts [fits_fixed rfl, fits_fixed rfl, fits_idx1 _ _ _]
theorem EncodedLength.bclr (ad : MemOp) (mm : Byte) : EncodedLength.Statement (.bclr ad mm) := by
  intro _
  cases ad
  exacts [fits_fixed rfl, fits_fixed rfl, fits_idx1 _ _ _]
theorem EncodedLength.brset (ad : MemOp) (mm : Byte) (rr : Byte) : EncodedLength.Statement (.brset ad mm rr) := by
  intro _
  cases ad
  exacts [fits_fixed rfl, fits_fixed rfl, fits_idx2 _ _ _ _]
theorem EncodedLength.brclr (ad : MemOp) (mm : Byte) (rr : Byte) : EncodedLength.Statement (.brclr ad mm rr) := by
  intro _
  cases ad
  exacts [fits_fixed rfl, fits_fixed rfl, fits_idx2 _ _ _ _]
theorem EncodedLength.andcc (ii : Byte) : EncodedLength.Statement (.andcc ii) := fun _ => fits_fixed rfl
theorem EncodedLength.ediv : EncodedLength.Statement (.ediv) := fun _ => fits_fixed rfl
theorem EncodedLength.mul : EncodedLength.Statement (.mul) := fun _ => fits_fixed rfl
theorem EncodedLength.emul : EncodedLength.Statement (.emul) := fun _ => fits_fixed rfl
theorem EncodedLength.orcc (ii : Byte) : EncodedLength.Statement (.orcc ii) := fun _ => fits_fixed rfl
theorem EncodedLength.jsr (ad : MemOp) : EncodedLength.Statement (.jsr ad) := by
  intro _
  cases ad
  exacts [fits_fixed rfl, fits_fixed rfl, fits_idx _ _]
theorem EncodedLength.page2Prebyte : EncodedLength.Statement (.page2Prebyte) := fun _ => fits_fixed rfl
theorem EncodedLength.leay (i : Idx) : EncodedLength.Statement (.leay i) := fun _ => fits_idx _ _
theorem EncodedLength.leax (i : Idx) : EncodedLength.Statement (.leax i) := fun _ => fits_idx _ _
theorem EncodedLength.leas (i : Idx) : EncodedLength.Statement (.leas i) := fun _ => fits_idx _ _
theorem EncodedLength.bra (rr : Byte) : EncodedLength.Statement (.bra rr) := fun _ => fits_fixed rfl
theorem EncodedLength.brn (rr : Byte) : EncodedLength.Statement (.brn rr) := fun _ => fits_fixed rfl
theorem EncodedLength.bhi (rr : Byte) : EncodedLength.Statement (.bhi rr) := fun _ => fits_fixed rfl
theorem EncodedLength.bls (rr : Byte) : EncodedLength.Statement (.bls rr) := fun _ => fits_fixed rfl
theorem EncodedLength.bcc (rr : Byte) : EncodedLength.Statement (.bcc rr) := fun _ => fits_fixed rfl
theorem EncodedLength.bcs (rr : Byte) : EncodedLength.Statement (.bcs rr) := fun _ => fits_fixed rfl
theorem EncodedLength.bne (rr : Byte) : EncodedLength.Statement (.bne rr) := fun _ => fits_fixed rfl
theorem EncodedLength.beq (rr : Byte) : EncodedLength.Statement (.beq rr) := fun _ => fits_fixed rfl
theorem EncodedLength.bvc (rr : Byte) : EncodedLength.Statement (.bvc rr) := fun _ => fits_fixed rfl
theorem EncodedLength.bvs (rr : Byte) : EncodedLength.Statement (.bvs rr) := fun _ => fits_fixed rfl
theorem EncodedLength.bpl (rr : Byte) : EncodedLength.Statement (.bpl rr) := fun _ => fits_fixed rfl
theorem EncodedLength.bmi (rr : Byte) : EncodedLength.Statement (.bmi rr) := fun _ => fits_fixed rfl
theorem EncodedLength.bge (rr : Byte) : EncodedLength.Statement (.bge rr) := fun _ => fits_fixed rfl
theorem EncodedLength.blt (rr : Byte) : EncodedLength.Statement (.blt rr) := fun _ => fits_fixed rfl
theorem EncodedLength.bgt (rr : Byte) : EncodedLength.Statement (.bgt rr) := fun _ => fits_fixed rfl
theorem EncodedLength.ble (rr : Byte) : EncodedLength.Statement (.ble rr) := fun _ => fits_fixed rfl
theorem EncodedLength.bhs (rr : Byte) : EncodedLength.Statement (.bhs rr) := fun _ => fits_fixed rfl
theorem EncodedLength.blo (rr : Byte) : EncodedLength.Statement (.blo rr) := fun _ => fits_fixed rfl
theorem EncodedLength.pulx : EncodedLength.Statement (.pulx) := fun _ => fits_fixed rfl
theorem EncodedLength.puly : EncodedLength.Statement (.puly) := fun _ => fits_fixed rfl
theorem EncodedLength.pula : EncodedLength.Statement (.pula) := fun _ => fits_fixed rfl
theorem EncodedLength.pulb : EncodedLength.Statement (.pulb) := fun _ => fits_fixed rfl
theorem EncodedLength.pshx : EncodedLength.Statement (.pshx) := fun _ => fits_fixed rfl
theorem EncodedLength.pshy : EncodedLength.Statement (.pshy) := fun _ => fits_fixed rfl
theorem EncodedLength.psha : EncodedLength.Statement (.psha) := fun _ => fits_fixed rfl
theorem EncodedLength.pshb : EncodedLength.Statement (.pshb) := fun _ => fits_fixed rfl
theorem EncodedLength.pulc : EncodedLength.Statement (.pulc) := fun _ => fits_fixed rfl
theorem EncodedLength.pshc : EncodedLength.Statement (.pshc) := fun _ => fits_fixed rfl
theorem EncodedLength.puld : EncodedLength.Statement (.puld) := fun _ => fits_fixed rfl
theorem EncodedLength.pshd : EncodedLength.Statement (.pshd) := fun _ => fits_fixed rfl
theorem EncodedLength.wavr : EncodedLength.Statement (.wavr) := fun _ => fits_fixed rfl
theorem EncodedLength.rts : EncodedLength.Statement (.rts) := fun _ => fits_fixed rfl
theorem EncodedLength.wai : EncodedLength.Statement (.wai) := fun _ => fits_fixed rfl
theorem EncodedLength.swi : EncodedLength.Statement (.swi) := fun _ => fits_fixed rfl
theorem EncodedLength.nega : EncodedLength.Statement (.nega) := fun _ => fits_fixed rfl
theorem EncodedLength.coma : EncodedLength.Statement (.coma) := fun _ => fits_fixed rfl
theorem EncodedLength.inca : EncodedLength.Statement (.inca) := fun _ => fits_fixed rfl
theorem EncodedLength.deca : EncodedLength.Statement (.deca) := fun _ => fits_fixed rfl
theorem EncodedLength.lsra : EncodedLength.Statement (.lsra) := fun _ => fits_fixed rfl
theorem EncodedLength.rola : EncodedLength.Statement (.rola) := fun _ => fits_fixed rfl
theorem EncodedLength.rora : EncodedLength.Statement (.rora) := fun _ => fits_fixed rfl
theorem EncodedLength.asra : EncodedLength.Statement (.asra) := fun _ => fits_fixed rfl
theorem EncodedLength.asla : EncodedLength.Statement (.asla) := fun _ => fits_fixed rfl
theorem EncodedLength.lsrd : EncodedLength.Statement (.lsrd) := fun _ => fits_fixed rfl
theorem EncodedLength.lsla : EncodedLength.Statement (.lsla) := fun _ => fits_fixed rfl
theorem EncodedLength.call (t : CallTarget) : EncodedLength.Statement (.call t) := by
  intro _
  cases t
  exacts [fits_fixed rfl, fits_idx1 _ _ _, fits_idx _ _]
theorem EncodedLength.negb : EncodedLength.Statement (.negb) := fun _ => fits_fixed rfl
theorem EncodedLength.comb : EncodedLength.Statement (.comb) := fun _ => fits_fixed rfl
theorem EncodedLength.incb : EncodedLength.Statement (.incb) := fun _ => fits_fixed rfl
theorem EncodedLength.decb : EncodedLength.Statement (.decb) := fun _ => fits_fixed rfl
theorem EncodedLength.lsrb : EncodedLength.Statement (.lsrb) := fun _ => fits_fixed rfl
theorem EncodedLength.rolb : EncodedLength.Statement (.rolb) := fun _ => fits_fixed rfl
theorem EncodedLength.rorb : EncodedLength.Statement (.rorb) := fun _ => fits_fixed rfl
theorem EncodedLength.asrb : EncodedLength.Statement (.asrb) := fun _ => fits_fixed rfl
theorem EncodedLength.aslb : EncodedLength.Statement (.aslb) := fun _ => fits_fixed rfl
theorem EncodedLength.asld : EncodedLength.Statement (.asld) := fun _ => fits_fixed rfl
theorem EncodedLength.lslb : EncodedLength.Statement (.lslb) := fun _ => fits_fixed rfl
theorem EncodedLength.lsld : EncodedLength.Statement (.lsld) := fun _ => fits_fixed rfl
theorem EncodedLength.staa (ad : MemOp) : EncodedLength.Statement (.staa ad) := by
  intro _
  cases ad
  exacts [fits_fixed rfl, fits_fixed rfl, fits_idx _ _]
theorem EncodedLength.stab (ad : MemOp) : EncodedLength.Statement (.stab ad) := by
  intro _
  cases ad
  exacts [fits_fixed rfl, fits_fixed rfl, fits_idx _ _]
theorem EncodedLength.std (ad : MemOp) : EncodedLength.Statement (.std ad) := by
  intro _
  cases ad
  exacts [fits_fixed rfl, fits_fixed rfl, fits_idx _ _]
theorem EncodedLength.sty (ad : MemOp) : EncodedLength.Statement (.sty ad) := by
  intro _
  cases ad
  exacts [fits_fixed rfl, fits_fixed rfl, fits_idx _ _]
theorem EncodedLength.stx (ad : MemOp) : EncodedLength.Statement (.stx ad) := by
  intro _
  cases ad
  exacts [fits_fixed rfl, fits_fixed rfl, fits_idx _ _]
theorem EncodedLength.sts (ad : MemOp) : EncodedLength.Statement (.sts ad) := by
  intro _
  cases ad
  exacts [fits_fixed rfl, fits_fixed rfl, fits_idx _ _]
theorem EncodedLength.neg (ad : ExtIdx) : EncodedLength.Statement (.neg ad) := by
  intro _
  cases ad
  exacts [fits_fixed rfl, fits_idx _ _]
theorem EncodedLength.com (ad : ExtIdx) : EncodedLength.Statement (.com ad) := by
  intro _
  cases ad
  exacts [fits_fixed rfl, fits_idx _ _]
theorem EncodedLength.inc (ad : ExtIdx) : EncodedLength.Statement (.inc ad) := by
  intro _
  cases ad
  exacts [fits_fixed rfl, fits_idx _ _]
theorem EncodedLength.dec (ad : ExtIdx) : EncodedLength.Statement (.dec ad) := by
  intro _
  cases ad
  exacts [fits_fixed rfl, fits_idx _ _]
theorem EncodedLength.lsr (ad : ExtIdx) : EncodedLength.Statement (.lsr ad) := by
  intro _
  cases ad
  exacts [fits_fixed rfl, fits_idx _ _]
theorem EncodedLength.rol (ad : ExtIdx) : EncodedLength.Statement (.rol ad) := by
  intro _
  cases ad
  exacts [fits_fixed rfl, fits_idx _ _]
theorem EncodedLength.ror (ad : ExtIdx) : EncodedLength.Statement (.ror ad) := by
  intro _
  cases ad
  exacts [fits_fixed rfl, fits_idx _ _]
theorem EncodedLength.asr (ad : ExtIdx) : EncodedLength.Statement (.asr ad) := by
  intro _
  cases ad
  exacts [fits_fixed rfl, fits_idx _ _]
theorem EncodedLength.asl (ad : ExtIdx) : EncodedLength.Statement (.asl ad) := by
  intro _
  cases ad
  exacts [fits_fixed rfl, fits_idx _ _]
theorem EncodedLength.clr (ad : ExtIdx) : EncodedLength.Statement (.clr ad) := by
  intro _
  cases ad
  exacts [fits_fixed rfl, fits_idx _ _]
theorem EncodedLength.lsl (ad : ExtIdx) : EncodedLength.Statement (.lsl ad) := by
  intro _
  cases ad
  exacts [fits_fixed rfl, fits_idx _ _]
theorem EncodedLength.suba (src : Src8) : EncodedLength.Statement (.suba src) := by
  intro _
  cases src
  exacts [fits_fixed rfl, fits_fixed rfl, fits_fixed rfl, fits_idx _ _]
theorem EncodedLength.cmpa (src : Src8) : EncodedLength.Statement (.cmpa src) := by
  intro _
  cases src
  exacts [fits_fixed rfl, fits_fixed rfl, fits_fixed rfl, fits_idx _ _]
theorem EncodedLength.sbca (src : Src8) : EncodedLength.Statement (.sbca src) := by
  intro _
  cases src
  exacts [fits_fixed rfl, fits_fixed rfl, fits_fixed rfl, fits_idx _ _]
theorem EncodedLength.subd (src : Src16) : EncodedLength.Statement (.subd src) := by
  intro _
  cases src
  exacts [fits_fixed rfl, fits_fixed rfl, fits_fixed rfl, fits_idx _ _]
theorem EncodedLength.anda (src : Src8) : EncodedLength.Statement (.anda src) := by
  intro _
  cases src
  exacts [fits_fixed rfl, fits_fixed rfl, fits_fixed rfl, fits_idx _ _]
theorem EncodedLength.bita (src : Src8) : EncodedLength.Statement (.bita src) := by
  intro _
  cases src
  exacts [fits_fixed rfl, fits_fixed rfl, fits_fixed rfl, fits_idx _ _]
theorem EncodedLength.ldaa (src : Src8) : EncodedLength.Statement (.ldaa src) := by
  intro _
  cases src
  exacts [fits_fixed rfl, fits_fixed rfl, fits_fixed rfl, fits_idx _ _]
theorem EncodedLength.eora (src : Src8) : EncodedLength.Statement (.eora src) := by
  intro _
  cases src
  exacts [fits_fixed rfl, fits_fixed rfl, fits_fixed rfl, fits_idx _ _]
theorem EncodedLength.adca (src : Src8) : EncodedLength.Statement (.adca src) := by
  intro _
  cases src
  exacts [fits_fixed rfl, fits_fixed rfl, fits_fixed rfl, fits_idx _ _]
theorem EncodedLength.oraa (src : Src8) : EncodedLength.Statement (.oraa src) := by
  intro _
  cases src
  exacts [fits_fixed rfl, fits_fixed rfl, fits_fixed rfl, fits_idx _ _]
theorem EncodedLength.adda (src : Src8) : EncodedLength.Statement (.adda src) := by
  intro _
  cases src
  exacts [fits_fixed rfl, fits_fixed rfl, fits_fixed rfl, fits_idx _ _]
theorem EncodedLength.cpd (src : Src16) : EncodedLength.Statement (.cpd src) := by
  intro _
  cases src
  exacts [fits_fixed rfl, fits_fixed rfl, fits_fixed rfl, fits_idx _ _]
theorem EncodedLength.cpy (src : Src16) : EncodedLength.Statement (.cpy src) := by
  intro _
  cases src
  exacts [fits_fixed rfl, fits_fixed rfl, fits_fixed rfl, fits_idx _ _]
theorem EncodedLength.cpx (src : Src16) : EncodedLength.Statement (.cpx src) := by
  intro _
  cases src
  exacts [fits_fixed rfl, fits_fixed rfl, fits_fixed rfl, fits_idx _ _]
theorem EncodedLength.cps (src : Src16) : EncodedLength.Statement (.cps src) := by
  intro _
  cases src
  exacts [fits_fixed rfl, fits_fixed rfl, fits_fixed rfl, fits_idx _ _]
theorem EncodedLength.subb (src : Src8) : EncodedLength.Statement (.subb src) := by
  intro _
  cases src
  exacts [fits_fixed rfl, fits_fixed rfl, fits_fixed rfl, fits_idx _ _]
theorem EncodedLength.cmpb (src : Src8) : EncodedLength.Statement (.cmpb src) := by
  intro _
  cases src
  exacts [fits_fixed rfl, fits_fixed rfl, fits_fixed rfl, fits_idx _ _]
theorem EncodedLength.sbcb (src : Src8) : EncodedLength.Statement (.sbcb src) := by
  intro _
  cases src
  exacts [fits_fixed rfl, fits_fixed rfl, fits_fixed rfl, fits_idx _ _]
theorem EncodedLength.addd (src : Src16) : EncodedLength.Statement (.addd src) := by
  intro _
  cases src
  exacts [fits_fixed rfl, fits_fixed rfl, fits_fixed rfl, fits_idx _ _]
theorem EncodedLength.andb (src : Src8) : EncodedLength.Statement (.andb src) := by
  intro _
  cases src
  exacts [fits_fixed rfl, fits_fixed rfl, fits_fixed rfl, fits_idx _ _]
theorem EncodedLength.bitb (src : Src8) : EncodedLength.Statement (.bitb src) := by
  intro _
  cases src
  exacts [fits_fixed rfl, fits_fixed rfl, fits_fixed rfl, fits_idx _ _]
theorem EncodedLength.ldab (src : Src8) : EncodedLength.Statement (.ldab src) := by
  intro _
  cases src
  exacts [fits_fixed rfl, fits_fixed rfl, fits_fixed rfl, fits_idx _ _]
theorem EncodedLength.eorb (src : Src8) : EncodedLength.Statement (.eorb src) := by
  intro _
  cases src
  exacts [fits_fixed rfl, fits_fixed rfl, fits_fixed rfl, fits_idx _ _]
theorem EncodedLength.adcb (src : Src8) : EncodedLength.Statement (.adcb src) := by
  intro _
  cases src
  exacts [fits_fixed rfl, fits_fixed rfl, fits_fixed rfl, fits_idx _ _]
theorem EncodedLength.orab (src : Src8) : EncodedLength.Statement (.orab src) := by
  intro _
  cases src
  exacts [fits_fixed rfl, fits_fixed rfl, fits_fixed rfl, fits_idx _ _]
theorem EncodedLength.addb (src : Src8) : EncodedLength.Statement (.addb src) := by
  intro _
  cases src
  exacts [fits_fixed rfl, fits_fixed rfl, fits_fixed rfl, fits_idx _ _]
theorem EncodedLength.ldd (src : Src16) : EncodedLength.Statement (.ldd src) := by
  intro _
  cases src
  exacts [fits_fixed rfl, fits_fixed rfl, fits_fixed rfl, fits_idx _ _]
theorem EncodedLength.ldy (src : Src16) : EncodedLength.Statement (.ldy src) := by
  intro _
  cases src
  exacts [fits_fixed rfl, fits_fixed rfl, fits_fixed rfl, fits_idx _ _]
theorem EncodedLength.ldx (src : Src16) : EncodedLength.Statement (.ldx src) := by
  intro _
  cases src
  exacts [fits_fixed rfl, fits_fixed rfl, fits_fixed rfl, fits_idx _ _]
theorem EncodedLength.lds (src : Src16) : EncodedLength.Statement (.lds src) := by
  intro _
  cases src
  exacts [fits_fixed rfl, fits_fixed rfl, fits_fixed rfl, fits_idx _ _]
theorem EncodedLength.clra : EncodedLength.Statement (.clra) := fun _ => fits_fixed rfl
theorem EncodedLength.tsta : EncodedLength.Statement (.tsta) := fun _ => fits_fixed rfl
theorem EncodedLength.nop : EncodedLength.Statement (.nop) := fun _ => fits_fixed rfl
theorem EncodedLength.tfr (src : XReg) (dst : XReg) : EncodedLength.Statement (.tfr src dst) := fun _ => fits_fixed rfl
theorem EncodedLength.exg (src : XReg) (dst : XReg) : EncodedLength.Statement (.exg src dst) := fun _ => fits_fixed rfl
theorem EncodedLength.sex (src : SexSrc) (dst : SexDst) : EncodedLength.Statement (.sex src dst) := fun _ => fits_fixed rfl
theorem EncodedLength.clrb : EncodedLength.Statement (.clrb) := fun _ => fits_fixed rfl
theorem EncodedLength.tstb : EncodedLength.Statement (.tstb) := fun _ => fits_fixed rfl
theorem EncodedLength.tst (ad : ExtIdx) : EncodedLength.Statement (.tst ad) := by
  intro _
  cases ad
  exacts [fits_fixed rfl, fits_idx _ _]
theorem EncodedLength.abx : EncodedLength.Statement (.abx) := fun _ => fits_fixed rfl
theorem EncodedLength.aby : EncodedLength.Statement (.aby) := fun _ => fits_fixed rfl
theorem EncodedLength.clc : EncodedLength.Statement (.clc) := fun _ => fits_fixed rfl
theorem EncodedLength.cli : EncodedLength.Statement (.cli) := fun _ => fits_fixed rfl
theorem EncodedLength.clv : EncodedLength.Statement (.clv) := fun _ => fits_fixed rfl
theorem EncodedLength.sec : EncodedLength.Statement (.sec) := fun _ => fits_fixed rfl
theorem EncodedLength.sei : EncodedLength.Statement (.sei) := fun _ => fits_fixed rfl
theorem EncodedLength.sev : EncodedLength.Statement (.sev) := fun _ => fits_fixed rfl
theorem EncodedLength.des : EncodedLength.Statement (.des) := fun _ => fits_fixed rfl
theorem EncodedLength.ins : EncodedLength.Statement (.ins) := fun _ => fits_fixed rfl
theorem EncodedLength.tap : EncodedLength.Statement (.tap) := fun _ => fits_fixed rfl
theorem EncodedLength.tpa : EncodedLength.Statement (.tpa) := fun _ => fits_fixed rfl
theorem EncodedLength.tsx : EncodedLength.Statement (.tsx) := fun _ => fits_fixed rfl
theorem EncodedLength.tsy : EncodedLength.Statement (.tsy) := fun _ => fits_fixed rfl
theorem EncodedLength.txs : EncodedLength.Statement (.txs) := fun _ => fits_fixed rfl
theorem EncodedLength.tys : EncodedLength.Statement (.tys) := fun _ => fits_fixed rfl
theorem EncodedLength.xgdx : EncodedLength.Statement (.xgdx) := fun _ => fits_fixed rfl
theorem EncodedLength.xgdy : EncodedLength.Statement (.xgdy) := fun _ => fits_fixed rfl
theorem EncodedLength.movw (src : MovSrc16) (dst : ExtIdx) : EncodedLength.Statement (.movw src dst) := by
  intro h
  have hs : src.isShort = true ∧ dst.isShort = true := Bool.and_eq_true_iff.mp h
  cases src <;> cases dst
  exacts [fits_fixed rfl, fits_move _ _ hs.2 (Nat.le_of_ble_eq_true rfl), fits_fixed rfl, fits_move _ _ hs.2 (Nat.le_of_ble_eq_true rfl),
    fits_move _ _ hs.1 (Nat.le_of_ble_eq_true rfl), fits_move2 _ _ hs]
theorem EncodedLength.movb (src : MovSrc8) (dst : ExtIdx) : EncodedLength.Statement (.movb src dst) := by
  intro h
  have hs : src.isShort = true ∧ dst.isShort = true := Bool.and_eq_true_iff.mp h
  cases src <;> cases dst
  exacts [fits_fixed rfl, fits_move _ _ hs.2 (Nat.le_of_ble_eq_true rfl), fits_fixed rfl, fits_move _ _ hs.2 (Nat.le_of_ble_eq_true rfl),
    fits_move _ _ hs.1 (Nat.le_of_ble_eq_true rfl), fits_move2 _ _ hs]
theorem EncodedLength.aba : EncodedLength.Statement (.aba) := fun _ => fits_fixed rfl
theorem EncodedLength.daa : EncodedLength.Statement (.daa) := fun _ => fits_fixed rfl
theorem EncodedLength.tab : EncodedLength.Statement (.tab) := fun _ => fits_fixed rfl
theorem EncodedLength.tba : EncodedLength.Statement (.tba) := fun _ => fits_fixed rfl
theorem EncodedLength.idiv : EncodedLength.Statement (.idiv) := fun _ => fits_fixed rfl
theorem EncodedLength.fdiv : EncodedLength.Statement (.fdiv) := fun _ => fits_fixed rfl
theorem EncodedLength.emacs (hhll : Word) : EncodedLength.Statement (.emacs hhll) := fun _ => fits_fixed rfl
theorem EncodedLength.emuls : EncodedLength.Statement (.emuls) := fun _ => fits_fixed rfl
theorem EncodedLength.edivs : EncodedLength.Statement (.edivs) := fun _ => fits_fixed rfl
theorem EncodedLength.idivs : EncodedLength.Statement (.idivs) := fun _ => fits_fixed rfl
theorem EncodedLength.sba : EncodedLength.Statement (.sba) := fun _ => fits_fixed rfl
theorem EncodedLength.cba : EncodedLength.Statement (.cba) := fun _ => fits_fixed rfl
theorem EncodedLength.maxa (i : Idx) : EncodedLength.Statement (.maxa i) := fun _ => fits_page2 _ _ _
theorem EncodedLength.mina (i : Idx) : EncodedLength.Statement (.mina i) := fun _ => fits_page2 _ _ _
theorem EncodedLength.emaxd (i : Idx) : EncodedLength.Statement (.emaxd i) := fun _ => fits_page2 _ _ _
theorem EncodedLength.emind (i : Idx) : EncodedLength.Statement (.emind i) := fun _ => fits_page2 _ _ _
theorem EncodedLength.maxm (i : Idx) : EncodedLength.Statement (.maxm i) := fun _ => fits_page2 _ _ _
theorem EncodedLength.minm (i : Idx) : EncodedLength.Statement (.minm i) := fun _ => fits_page2 _ _ _
theorem EncodedLength.emaxm (i : Idx) : EncodedLength.Statement (.emaxm i) := fun _ => fits_page2 _ _ _
theorem EncodedLength.eminm (i : Idx) : EncodedLength.Statement (.eminm i) := fun _ => fits_page2 _ _ _
theorem EncodedLength.lbra (qqrr : Word) : EncodedLength.Statement (.lbra qqrr) := fun _ => fits_fixed rfl
theorem EncodedLength.lbrn (qqrr : Word) : EncodedLength.Statement (.lbrn qqrr) := fun _ => fits_fixed rfl
theorem EncodedLength.lbhi (qqrr : Word) : EncodedLength.Statement (.lbhi qqrr) := fun _ => fits_fixed rfl
theorem EncodedLength.lbls (qqrr : Word) : EncodedLength.Statement (.lbls qqrr) := fun _ => fits_fixed rfl
theorem EncodedLength.lbcc (qqrr : Word) : EncodedLength.Statement (.lbcc qqrr) := fun _ => fits_fixed rfl
theorem EncodedLength.lbcs (qqrr : Word) : EncodedLength.Statement (.lbcs qqrr) := fun _ => fits_fixed rfl
theorem EncodedLength.lbne (qqrr : Word) : EncodedLength.Statement (.lbne qqrr) := fun _ => fits_fixed rfl
theorem EncodedLength.lbeq (qqrr : Word) : EncodedLength.Statement (.lbeq qqrr) := fun _ => fits_fixed rfl
theorem EncodedLength.lbvc (qqrr : Word) : EncodedLength.Statement (.lbvc qqrr) := fun _ => fits_fixed rfl
theorem EncodedLength.lbvs (qqrr : Word) : EncodedLength.Statement (.lbvs qqrr) := fun _ => fits_fixed rfl
theorem EncodedLength.lbpl (qqrr : Word) : EncodedLength.Statement (.lbpl qqrr) := fun _ => fits_fixed rfl
theorem EncodedLength.lbmi (qqrr : Word) : EncodedLength.Statement (.lbmi qqrr) := fun _ => fits_fixed rfl
theorem EncodedLength.lbge (qqrr : Word) : EncodedLength.Statement (.lbge qqrr) := fun _ => fits_fixed rfl
theorem EncodedLength.lblt (qqrr : Word) : EncodedLength.Statement (.lblt qqrr) := fun _ => fits_fixed rfl
theorem EncodedLength.lbgt (qqrr : Word) : EncodedLength.Statement (.lbgt qqrr) := fun _ => fits_fixed rfl
theorem EncodedLength.lble (qqrr : Word) : EncodedLength.Statement (.lble qqrr) := fun _ => fits_fixed rfl
theorem EncodedLength.lbhs (qqrr : Word) : EncodedLength.Statement (.lbhs qqrr) := fun _ => fits_fixed rfl
theorem EncodedLength.lblo (qqrr : Word) : EncodedLength.Statement (.lblo qqrr) := fun _ => fits_fixed rfl
theorem EncodedLength.rev : EncodedLength.Statement (.rev) := fun _ => fits_fixed rfl
theorem EncodedLength.revw : EncodedLength.Statement (.revw) := fun _ => fits_fixed rfl
theorem EncodedLength.wav : EncodedLength.Statement (.wav) := fun _ => fits_fixed rfl
theorem EncodedLength.tbl (i : Idx) : EncodedLength.Statement (.tbl i) := fun _ => fits_page2 _ _ _
theorem EncodedLength.stop : EncodedLength.Statement (.stop) := fun _ => fits_fixed rfl
theorem EncodedLength.etbl (i : Idx) : EncodedLength.Statement (.etbl i) := fun _ => fits_page2 _ _ _
theorem EncodedLength.trap (tn : Byte) : EncodedLength.Statement (.trap tn) := fun _ => fits_fixed rfl

end Sys2Proof.Laws
end

