-- ==== Sys2Proof/Laws/Transfer.lean ====
section
/-! SUPPORT. Reading and writing a register code of TFR and EXG, as numbers. -/

namespace Sys2Proof.Machine

theorem loByte_ofNat (n : Nat) : loByte (BitVec.ofNat 16 n) = BitVec.ofNat 8 n := by
  apply BitVec.eq_of_toNat_eq; simp [loByte_eq]

theorem withD_mod (s : State) (n : Nat) : s.withD (n % 65536) = s.withD n := by
  simp only [State.withD, State.mk.injEq, and_true]
  constructor <;> apply BitVec.eq_of_toNat_eq <;> simp only [BitVec.toNat_ofNat] <;> omega

/-- What a register code reads as. -/
theorem XReg_read_eq (r : XReg) (first : Bool) (s : State) : r.read first s = BitVec.ofNat 16 (regNat r first s) := by
  have := Ccr.nat_lt s.ccr
  cases r <;> simp [XReg.read, regNat, zext8_eq, d_eq, ccr_toByte_eq]
  · rw [Nat.mod_eq_of_lt (by omega)]
  · split <;> simp

/-- What a write of a register code does. -/
theorem XReg_write_eq (r : XReg) (first : Bool) (n : Nat) (s : State) :
    r.write first (BitVec.ofNat 16 n) s = putReg r first n s := by
  cases r <;> simp [XReg.write, putReg, loByte_ofNat, State.writeCcr, Ccr.write_eq, setD_eq, withD_mod]

@[simp] theorem putReg_mem (r : XReg) (f : Bool) (n : Nat) (s : State) : (putReg r f n s).mem = s.mem := by
  cases r <;> simp only [putReg, State.withD]; split <;> rfl

@[simp] theorem putReg_dev (r : XReg) (f : Bool) (n : Nat) (s : State) : (putReg r f n s).dev = s.dev := by
  cases r <;> simp only [putReg, State.withD]; split <;> rfl

@[simp] theorem putReg_ppage (r : XReg) (f : Bool) (n : Nat) (s : State) : (putReg r f n s).ppage = s.ppage := by
  cases r <;> simp only [putReg, State.withD]; split <;> rfl

@[simp] theorem putReg_freeIdx (r : XReg) (f : Bool) (n : Nat) (s : State) : (putReg r f n s).freeIdx = s.freeIdx := by
  cases r <;> simp only [putReg, State.withD]; split <;> rfl

/-- Sign extension of a byte, as a number (00_scope.md R9). -/
theorem sext8_eq (v : Byte) : sext8 v = BitVec.ofNat 16 (if 128 ≤ v.toNat then 0xFF00 + v.toNat else v.toNat) := by
  revert v; decide +kernel

end Sys2Proof.Machine
end

