-- ==== Sys2Proof/Tests/Slice0.lean ====
section
/-! SUPPORT. Tests: ill-formed terms refused; every row of the opcode maps decoded from bytes written out from
30_encoding.md R100, R105, R113, R114, R116, R120, R121; single steps with the results of spec/95_test_vectors.md; and, for
every statement of Obligations.lean that has hypotheses, states and operands that meet them. -/

namespace Sys2Proof.Tests

open Sys2Proof.Machine

/-! ### Well-formedness -/

/-- One ill-formed term for each check of `Instr.wellFormed` (30_encoding.md R110, R114, R117, R118). -/
theorem test_ill_formed_terms_refused : [Instr.leay (.indD .x), .leax (.ind16 .y 0), .leas (.indD .pc),
    .bset (.idx (.indD .x)) 1, .bclr (.idx (.ind16 .x 0)) 1, .brset (.idx (.indD .y)) 1 2, .brclr (.idx (.ind16 .sp 9)) 1 2,
    .movb (.idx (.off9 .x 0)) (.ext 0), .movb (.imm 0) (.idx (.off16 .x 0)), .movw (.idx (.ind16 .x 0)) (.ext 0),
    .movw (.imm 0) (.idx (.indD .x)), .tbl (.off9 .x 0), .etbl (.indD .y), .call (.idx (.indD .x) 0),
    .call (.ind (.off5 .x 0)), .trap 0x2F, .trap 0x3A, .trap 0x3F, .unassignedLoopPostbyte 0xBF 0, .page2Prebyte].all
      (fun i => !i.wellFormed) = true := by decide

/-- Terms just inside the same checks. -/
theorem test_well_formed_terms_accepted : [Instr.leay (.off16 .x 0), .bset (.idx (.off9 .x 0)) 0, .jsr (.idx (.indD .x)),
    .movb (.idx (.acc .pc .d)) (.idx (.auto .sp false 15)), .tbl (.auto .y true 0), .call (.ind (.indD .x)), .trap 0x30,
    .trap 0x39, .trap 0x40, .trap 0xFF, .unassignedLoopPostbyte 0xC0 0].all (fun i => i.wellFormed) = true := by decide

/-! ### Decoding -/

/-- The bytes are exactly this instruction. -/
def decodesTo (bs : List Byte) (i : Instr) : Bool :=
  match decode bs with
  | .ok (j, []) => decide (j = i)
  | _ => false

/-- Each of these byte sequences is exactly its instruction. -/
def decodesAll (l : List (List Byte × Instr)) : Bool := l.all fun p => decodesTo p.1 p.2

/-- The bytes are refused, for this reason. -/
def refusedAs (bs : List Byte) (e : DecodeError) : Bool :=
  match decode bs with
  | .error f => decide (f = e)
  | _ => false

/-- What no instruction is: an unassigned loop counter (R114), a form its instruction does not accept (R110). -/
theorem test_decode_refusals :
    (refusedAs [0x04, 0b00000010, 0] .loopRegisterUnassigned && refusedAs [0x04, 0b10110011, 0] .loopRegisterUnassigned &&
      refusedAs [0x1A, 0b11100111] .indexedFormNotAccepted && refusedAs [0x18, 0x3D, 0b11100000, 0] .indexedFormNotAccepted &&
      refusedAs [0x0C, 0b11101011, 0, 0, 1] .indexedFormNotAccepted && refusedAs [0x18] .truncated) = true := by decide

theorem test_decode_page1_row0 : decodesAll [
    ([0x00], .bgnd), ([0x01], .mem), ([0x02], .iny), ([0x03], .dey), ([0x04, 0b00010101, 0xFD], .dbeq .x 0x1FD),
    ([0x04, 0b00100000, 0xFD], .dbne .a 0x0FD), ([0x04, 0b01010001, 0xFD], .tbeq .b 0x1FD),
    ([0x04, 0b01100100, 0xFD], .tbne .d 0x0FD), ([0x04, 0b10010110, 0xFD], .ibeq .y 0x1FD),
    ([0x04, 0b10100111, 0xFD], .ibne .sp 0x0FD), ([0x04, 0b11000101, 0x10], .unassignedLoopPostbyte 0b11000101 0x10),
    ([0x05, 0b01011000], .jmp (.idx (.off5 .y (-8)))), ([0x06, 0x12, 0x34], .jmp (.ext 0x1234)), ([0x07, 0xFC], .bsr 0xFC),
    ([0x08], .inx), ([0x09], .dex), ([0x0A], .rtc), ([0x0B], .rti),
    ([0x0C, 0b01011000, 0x81], .bset (.idx (.off5 .y (-8))) 0x81),
    ([0x0D, 0b10110001, 0x81], .bclr (.idx (.auto .sp true 1)) 0x81),
    ([0x0E, 0b00101111, 0x81, 0xFC], .brset (.idx (.auto .x false 15)) 0x81 0xFC),
    ([0x0F, 0b11100101, 0x81, 0xFC], .brclr (.idx (.acc .x .b)) 0x81 0xFC)] = true := by decide

theorem test_decode_page1_row1 : decodesAll [
    ([0x1C, 0x12, 0x34, 0x81], .bset (.ext 0x1234) 0x81), ([0x1D, 0x12, 0x34, 0x81], .bclr (.ext 0x1234) 0x81),
    ([0x1E, 0x12, 0x34, 0x81, 0xFC], .brset (.ext 0x1234) 0x81 0xFC),
    ([0x1F, 0x12, 0x34, 0x81, 0xFC], .brclr (.ext 0x1234) 0x81 0xFC), ([0x10, 0x80], .andcc 0x80), ([0x11], .ediv),
    ([0x12], .mul), ([0x13], .emul), ([0x14, 0x80], .orcc 0x80), ([0x15, 0b10110001], .jsr (.idx (.auto .sp true 1))),
    ([0x16, 0x12, 0x34], .jsr (.ext 0x1234)), ([0x17, 0x20], .jsr (.dir 0x20)),
    ([0x19, 0b11110001, 0x00], .leay (.off9 .sp 0x100)), ([0x1A, 0b11111010, 0x12, 0x34], .leax (.off16 .pc 0x1234)),
    ([0x1B, 0b01011000], .leas (.off5 .y (-8)))] = true := by decide

theorem test_decode_page1_row2 : decodesAll [
    ([0x20, 0xFC], .bra 0xFC), ([0x21, 0xFC], .brn 0xFC), ([0x22, 0xFC], .bhi 0xFC), ([0x23, 0xFC], .bls 0xFC),
    ([0x24, 0xFC], .bcc 0xFC), ([0x25, 0xFC], .bcs 0xFC), ([0x26, 0xFC], .bne 0xFC), ([0x27, 0xFC], .beq 0xFC),
    ([0x28, 0xFC], .bvc 0xFC), ([0x29, 0xFC], .bvs 0xFC), ([0x2A, 0xFC], .bpl 0xFC), ([0x2B, 0xFC], .bmi 0xFC),
    ([0x2C, 0xFC], .bge 0xFC), ([0x2D, 0xFC], .blt 0xFC), ([0x2E, 0xFC], .bgt 0xFC), ([0x2F, 0xFC], .ble 0xFC)] = true := by decide

theorem test_decode_page1_row3 : decodesAll [
    ([0x30], .pulx), ([0x31], .puly), ([0x32], .pula), ([0x33], .pulb), ([0x34], .pshx), ([0x35], .pshy), ([0x36], .psha),
    ([0x37], .pshb), ([0x38], .pulc), ([0x39], .pshc), ([0x3A], .puld), ([0x3B], .pshd), ([0x3C], .wavr), ([0x3D], .rts),
    ([0x3E], .wai), ([0x3F], .swi)] = true := by decide

theorem test_decode_page1_row4 : decodesAll [
    ([0x4C, 0x20, 0x81], .bset (.dir 0x20) 0x81), ([0x4D, 0x20, 0x81], .bclr (.dir 0x20) 0x81),
    ([0x4E, 0x20, 0x81, 0xFC], .brset (.dir 0x20) 0x81 0xFC), ([0x4F, 0x20, 0x81, 0xFC], .brclr (.dir 0x20) 0x81 0xFC),
    ([0x40], .nega), ([0x41], .coma), ([0x42], .inca), ([0x43], .deca), ([0x44], .lsra), ([0x45], .rola), ([0x46], .rora),
    ([0x47], .asra), ([0x48], .asla), ([0x49], .lsrd), ([0x4A, 0x12, 0x34, 0x07], .call (.ext 0x1234 0x07)),
    ([0x4B, 0b10110001, 0x07], .call (.idx (.auto .sp true 1) 0x07)),
    ([0x4B, 0b11101011, 0x12, 0x34], .call (.ind (.ind16 .y 0x1234)))] = true := by decide

theorem test_decode_page1_row5 : decodesAll [
    ([0x50], .negb), ([0x51], .comb), ([0x52], .incb), ([0x53], .decb), ([0x54], .lsrb), ([0x55], .rolb), ([0x56], .rorb),
    ([0x57], .asrb), ([0x58], .aslb), ([0x59], .asld), ([0x5A, 0x20], .staa (.dir 0x20)), ([0x5B, 0x20], .stab (.dir 0x20)),
    ([0x5C, 0x20], .std (.dir 0x20)), ([0x5D, 0x20], .sty (.dir 0x20)), ([0x5E, 0x20], .stx (.dir 0x20)),
    ([0x5F, 0x20], .sts (.dir 0x20))] = true := by decide

theorem test_decode_page1_row6 : decodesAll [
    ([0x6A, 0b00101111], .staa (.idx (.auto .x false 15))), ([0x6B, 0b11100101], .stab (.idx (.acc .x .b))),
    ([0x6C, 0b11110001, 0x00], .std (.idx (.off9 .sp 0x100))),
    ([0x6D, 0b11111010, 0x12, 0x34], .sty (.idx (.off16 .pc 0x1234))),
    ([0x6E, 0b11101011, 0x12, 0x34], .stx (.idx (.ind16 .y 0x1234))), ([0x6F, 0b11100111], .sts (.idx (.indD .x))),
    ([0x60, 0b01011000], .neg (.idx (.off5 .y (-8)))), ([0x61, 0b10110001], .com (.idx (.auto .sp true 1))),
    ([0x62, 0b00101111], .inc (.idx (.auto .x false 15))), ([0x63, 0b11100101], .dec (.idx (.acc .x .b))),
    ([0x64, 0b11110001, 0x00], .lsr (.idx (.off9 .sp 0x100))),
    ([0x65, 0b11111010, 0x12, 0x34], .rol (.idx (.off16 .pc 0x1234))),
    ([0x66, 0b11101011, 0x12, 0x34], .ror (.idx (.ind16 .y 0x1234))), ([0x67, 0b11100111], .asr (.idx (.indD .x))),
    ([0x68, 0b01011000], .asl (.idx (.off5 .y (-8)))), ([0x69, 0b10110001], .clr (.idx (.auto .sp true 1)))] = true := by decide

theorem test_decode_page1_row7 : decodesAll [
    ([0x7A, 0x12, 0x34], .staa (.ext 0x1234)), ([0x7B, 0x12, 0x34], .stab (.ext 0x1234)),
    ([0x7C, 0x12, 0x34], .std (.ext 0x1234)), ([0x7D, 0x12, 0x34], .sty (.ext 0x1234)),
    ([0x7E, 0x12, 0x34], .stx (.ext 0x1234)), ([0x7F, 0x12, 0x34], .sts (.ext 0x1234)),
    ([0x70, 0x12, 0x34], .neg (.ext 0x1234)), ([0x71, 0x12, 0x34], .com (.ext 0x1234)),
    ([0x72, 0x12, 0x34], .inc (.ext 0x1234)), ([0x73, 0x12, 0x34], .dec (.ext 0x1234)),
    ([0x74, 0x12, 0x34], .lsr (.ext 0x1234)), ([0x75, 0x12, 0x34], .rol (.ext 0x1234)),
    ([0x76, 0x12, 0x34], .ror (.ext 0x1234)), ([0x77, 0x12, 0x34], .asr (.ext 0x1234)),
    ([0x78, 0x12, 0x34], .asl (.ext 0x1234)), ([0x79, 0x12, 0x34], .clr (.ext 0x1234))] = true := by decide

theorem test_decode_page1_row8 : decodesAll [
    ([0x80, 0x80], .suba (.imm 0x80)), ([0x81, 0x80], .cmpa (.imm 0x80)), ([0x82, 0x80], .sbca (.imm 0x80)),
    ([0x83, 0x80, 0x01], .subd (.imm 0x8001)), ([0x84, 0x80], .anda (.imm 0x80)), ([0x85, 0x80], .bita (.imm 0x80)),
    ([0x86, 0x80], .ldaa (.imm 0x80)), ([0x88, 0x80], .eora (.imm 0x80)), ([0x89, 0x80], .adca (.imm 0x80)),
    ([0x8A, 0x80], .oraa (.imm 0x80)), ([0x8B, 0x80], .adda (.imm 0x80)), ([0x8C, 0x80, 0x01], .cpd (.imm 0x8001)),
    ([0x8D, 0x80, 0x01], .cpy (.imm 0x8001)), ([0x8E, 0x80, 0x01], .cpx (.imm 0x8001)),
    ([0x8F, 0x80, 0x01], .cps (.imm 0x8001)), ([0x87], .clra)] = true := by decide

theorem test_decode_page1_row9 : decodesAll [
    ([0x90, 0x20], .suba (.dir 0x20)), ([0x91, 0x20], .cmpa (.dir 0x20)), ([0x92, 0x20], .sbca (.dir 0x20)),
    ([0x93, 0x20], .subd (.dir 0x20)), ([0x94, 0x20], .anda (.dir 0x20)), ([0x95, 0x20], .bita (.dir 0x20)),
    ([0x96, 0x20], .ldaa (.dir 0x20)), ([0x98, 0x20], .eora (.dir 0x20)), ([0x99, 0x20], .adca (.dir 0x20)),
    ([0x9A, 0x20], .oraa (.dir 0x20)), ([0x9B, 0x20], .adda (.dir 0x20)), ([0x9C, 0x20], .cpd (.dir 0x20)),
    ([0x9D, 0x20], .cpy (.dir 0x20)), ([0x9E, 0x20], .cpx (.dir 0x20)), ([0x9F, 0x20], .cps (.dir 0x20)), ([0x97], .tsta)] = true := by decide

theorem test_decode_page1_rowA : decodesAll [
    ([0xA0, 0b11100101], .suba (.idx (.acc .x .b))), ([0xA1, 0b11110001, 0x00], .cmpa (.idx (.off9 .sp 0x100))),
    ([0xA2, 0b11111010, 0x12, 0x34], .sbca (.idx (.off16 .pc 0x1234))),
    ([0xA3, 0b11101011, 0x12, 0x34], .subd (.idx (.ind16 .y 0x1234))), ([0xA4, 0b11100111], .anda (.idx (.indD .x))),
    ([0xA5, 0b01011000], .bita (.idx (.off5 .y (-8)))), ([0xA6, 0b10110001], .ldaa (.idx (.auto .sp true 1))),
    ([0xA8, 0b00101111], .eora (.idx (.auto .x false 15))), ([0xA9, 0b11100101], .adca (.idx (.acc .x .b))),
    ([0xAA, 0b11110001, 0x00], .oraa (.idx (.off9 .sp 0x100))),
    ([0xAB, 0b11111010, 0x12, 0x34], .adda (.idx (.off16 .pc 0x1234))),
    ([0xAC, 0b11101011, 0x12, 0x34], .cpd (.idx (.ind16 .y 0x1234))), ([0xAD, 0b11100111], .cpy (.idx (.indD .x))),
    ([0xAE, 0b01011000], .cpx (.idx (.off5 .y (-8)))), ([0xAF, 0b10110001], .cps (.idx (.auto .sp true 1))), ([0xA7], .nop)] = true := by decide

theorem test_decode_page1_rowB : decodesAll [
    ([0xB0, 0x12, 0x34], .suba (.ext 0x1234)), ([0xB1, 0x12, 0x34], .cmpa (.ext 0x1234)),
    ([0xB2, 0x12, 0x34], .sbca (.ext 0x1234)), ([0xB3, 0x12, 0x34], .subd (.ext 0x1234)),
    ([0xB4, 0x12, 0x34], .anda (.ext 0x1234)), ([0xB5, 0x12, 0x34], .bita (.ext 0x1234)),
    ([0xB6, 0x12, 0x34], .ldaa (.ext 0x1234)), ([0xB8, 0x12, 0x34], .eora (.ext 0x1234)),
    ([0xB9, 0x12, 0x34], .adca (.ext 0x1234)), ([0xBA, 0x12, 0x34], .oraa (.ext 0x1234)),
    ([0xBB, 0x12, 0x34], .adda (.ext 0x1234)), ([0xBC, 0x12, 0x34], .cpd (.ext 0x1234)),
    ([0xBD, 0x12, 0x34], .cpy (.ext 0x1234)), ([0xBE, 0x12, 0x34], .cpx (.ext 0x1234)),
    ([0xBF, 0x12, 0x34], .cps (.ext 0x1234)), ([0xB7, 0b01010110], .tfr .x .y), ([0xB7, 0b10000011], .exg .a .tmp)] = true := by decide

theorem test_decode_page1_rowC : decodesAll [
    ([0xC0, 0x80], .subb (.imm 0x80)), ([0xC1, 0x80], .cmpb (.imm 0x80)), ([0xC2, 0x80], .sbcb (.imm 0x80)),
    ([0xC3, 0x80, 0x01], .addd (.imm 0x8001)), ([0xC4, 0x80], .andb (.imm 0x80)), ([0xC5, 0x80], .bitb (.imm 0x80)),
    ([0xC6, 0x80], .ldab (.imm 0x80)), ([0xC8, 0x80], .eorb (.imm 0x80)), ([0xC9, 0x80], .adcb (.imm 0x80)),
    ([0xCA, 0x80], .orab (.imm 0x80)), ([0xCB, 0x80], .addb (.imm 0x80)), ([0xCC, 0x80, 0x01], .ldd (.imm 0x8001)),
    ([0xCD, 0x80, 0x01], .ldy (.imm 0x8001)), ([0xCE, 0x80, 0x01], .ldx (.imm 0x8001)),
    ([0xCF, 0x80, 0x01], .lds (.imm 0x8001)), ([0xC7], .clrb)] = true := by decide

theorem test_decode_page1_rowD : decodesAll [
    ([0xD0, 0x20], .subb (.dir 0x20)), ([0xD1, 0x20], .cmpb (.dir 0x20)), ([0xD2, 0x20], .sbcb (.dir 0x20)),
    ([0xD3, 0x20], .addd (.dir 0x20)), ([0xD4, 0x20], .andb (.dir 0x20)), ([0xD5, 0x20], .bitb (.dir 0x20)),
    ([0xD6, 0x20], .ldab (.dir 0x20)), ([0xD8, 0x20], .eorb (.dir 0x20)), ([0xD9, 0x20], .adcb (.dir 0x20)),
    ([0xDA, 0x20], .orab (.dir 0x20)), ([0xDB, 0x20], .addb (.dir 0x20)), ([0xDC, 0x20], .ldd (.dir 0x20)),
    ([0xDD, 0x20], .ldy (.dir 0x20)), ([0xDE, 0x20], .ldx (.dir 0x20)), ([0xDF, 0x20], .lds (.dir 0x20)), ([0xD7], .tstb)] = true := by decide

theorem test_decode_page1_rowE : decodesAll [
    ([0xE0, 0b00101111], .subb (.idx (.auto .x false 15))), ([0xE1, 0b11100101], .cmpb (.idx (.acc .x .b))),
    ([0xE2, 0b11110001, 0x00], .sbcb (.idx (.off9 .sp 0x100))),
    ([0xE3, 0b11111010, 0x12, 0x34], .addd (.idx (.off16 .pc 0x1234))),
    ([0xE4, 0b11101011, 0x12, 0x34], .andb (.idx (.ind16 .y 0x1234))), ([0xE5, 0b11100111], .bitb (.idx (.indD .x))),
    ([0xE6, 0b01011000], .ldab (.idx (.off5 .y (-8)))), ([0xE8, 0b10110001], .eorb (.idx (.auto .sp true 1))),
    ([0xE9, 0b00101111], .adcb (.idx (.auto .x false 15))), ([0xEA, 0b11100101], .orab (.idx (.acc .x .b))),
    ([0xEB, 0b11110001, 0x00], .addb (.idx (.off9 .sp 0x100))),
    ([0xEC, 0b11111010, 0x12, 0x34], .ldd (.idx (.off16 .pc 0x1234))),
    ([0xED, 0b11101011, 0x12, 0x34], .ldy (.idx (.ind16 .y 0x1234))), ([0xEE, 0b11100111], .ldx (.idx (.indD .x))),
    ([0xEF, 0b01011000], .lds (.idx (.off5 .y (-8)))), ([0xE7, 0b10110001], .tst (.idx (.auto .sp true 1)))] = true := by decide

theorem test_decode_page1_rowF : decodesAll [
    ([0xF0, 0x12, 0x34], .subb (.ext 0x1234)), ([0xF1, 0x12, 0x34], .cmpb (.ext 0x1234)),
    ([0xF2, 0x12, 0x34], .sbcb (.ext 0x1234)), ([0xF3, 0x12, 0x34], .addd (.ext 0x1234)),
    ([0xF4, 0x12, 0x34], .andb (.ext 0x1234)), ([0xF5, 0x12, 0x34], .bitb (.ext 0x1234)),
    ([0xF6, 0x12, 0x34], .ldab (.ext 0x1234)), ([0xF8, 0x12, 0x34], .eorb (.ext 0x1234)),
    ([0xF9, 0x12, 0x34], .adcb (.ext 0x1234)), ([0xFA, 0x12, 0x34], .orab (.ext 0x1234)),
    ([0xFB, 0x12, 0x34], .addb (.ext 0x1234)), ([0xFC, 0x12, 0x34], .ldd (.ext 0x1234)),
    ([0xFD, 0x12, 0x34], .ldy (.ext 0x1234)), ([0xFE, 0x12, 0x34], .ldx (.ext 0x1234)),
    ([0xFF, 0x12, 0x34], .lds (.ext 0x1234)), ([0xF7, 0x12, 0x34], .tst (.ext 0x1234))] = true := by decide

theorem test_decode_page2_row0 : decodesAll [
    ([0x18, 0x00, 0b01011000, 0x87, 0x65], .movw (.imm 0x8765) (.idx (.off5 .y (-8)))),
    ([0x18, 0x01, 0b00101111, 0x12, 0x34], .movw (.ext 0x1234) (.idx (.auto .x false 15))),
    ([0x18, 0x02, 0b01011000, 0b10110001], .movw (.idx (.off5 .y (-8))) (.idx (.auto .sp true 1))),
    ([0x18, 0x03, 0x87, 0x65, 0x12, 0x34], .movw (.imm 0x8765) (.ext 0x1234)),
    ([0x18, 0x04, 0x12, 0x34, 0x56, 0x78], .movw (.ext 0x1234) (.ext 0x5678)),
    ([0x18, 0x05, 0b00101111, 0x56, 0x78], .movw (.idx (.auto .x false 15)) (.ext 0x5678)),
    ([0x18, 0x08, 0b01011000, 0x87], .movb (.imm 0x87) (.idx (.off5 .y (-8)))),
    ([0x18, 0x09, 0b00101111, 0x12, 0x34], .movb (.ext 0x1234) (.idx (.auto .x false 15))),
    ([0x18, 0x0A, 0b01011000, 0b10110001], .movb (.idx (.off5 .y (-8))) (.idx (.auto .sp true 1))),
    ([0x18, 0x0B, 0x87, 0x12, 0x34], .movb (.imm 0x87) (.ext 0x1234)),
    ([0x18, 0x0C, 0x12, 0x34, 0x56, 0x78], .movb (.ext 0x1234) (.ext 0x5678)),
    ([0x18, 0x0D, 0b00101111, 0x56, 0x78], .movb (.idx (.auto .x false 15)) (.ext 0x5678)), ([0x18, 0x06], .aba),
    ([0x18, 0x07], .daa), ([0x18, 0x0E], .tab), ([0x18, 0x0F], .tba)] = true := by decide

theorem test_decode_page2_row1 : decodesAll [
    ([0x18, 0x10], .idiv), ([0x18, 0x11], .fdiv), ([0x18, 0x12, 0x12, 0x34], .emacs 0x1234), ([0x18, 0x13], .emuls),
    ([0x18, 0x14], .edivs), ([0x18, 0x15], .idivs), ([0x18, 0x16], .sba), ([0x18, 0x17], .cba),
    ([0x18, 0x18, 0b00101111], .maxa (.auto .x false 15)), ([0x18, 0x19, 0b11100101], .mina (.acc .x .b)),
    ([0x18, 0x1A, 0b11110001, 0x00], .emaxd (.off9 .sp 0x100)),
    ([0x18, 0x1B, 0b11111010, 0x12, 0x34], .emind (.off16 .pc 0x1234)),
    ([0x18, 0x1C, 0b11101011, 0x12, 0x34], .maxm (.ind16 .y 0x1234)), ([0x18, 0x1D, 0b11100111], .minm (.indD .x)),
    ([0x18, 0x1E, 0b01011000], .emaxm (.off5 .y (-8))), ([0x18, 0x1F, 0b10110001], .eminm (.auto .sp true 1))] = true := by decide

theorem test_decode_page2_row2 : decodesAll [
    ([0x18, 0x20, 0xFF, 0xFC], .lbra 0xFFFC), ([0x18, 0x21, 0xFF, 0xFC], .lbrn 0xFFFC),
    ([0x18, 0x22, 0xFF, 0xFC], .lbhi 0xFFFC), ([0x18, 0x23, 0xFF, 0xFC], .lbls 0xFFFC),
    ([0x18, 0x24, 0xFF, 0xFC], .lbcc 0xFFFC), ([0x18, 0x25, 0xFF, 0xFC], .lbcs 0xFFFC),
    ([0x18, 0x26, 0xFF, 0xFC], .lbne 0xFFFC), ([0x18, 0x27, 0xFF, 0xFC], .lbeq 0xFFFC),
    ([0x18, 0x28, 0xFF, 0xFC], .lbvc 0xFFFC), ([0x18, 0x29, 0xFF, 0xFC], .lbvs 0xFFFC),
    ([0x18, 0x2A, 0xFF, 0xFC], .lbpl 0xFFFC), ([0x18, 0x2B, 0xFF, 0xFC], .lbmi 0xFFFC),
    ([0x18, 0x2C, 0xFF, 0xFC], .lbge 0xFFFC), ([0x18, 0x2D, 0xFF, 0xFC], .lblt 0xFFFC),
    ([0x18, 0x2E, 0xFF, 0xFC], .lbgt 0xFFFC), ([0x18, 0x2F, 0xFF, 0xFC], .lble 0xFFFC)] = true := by decide

theorem test_decode_page2_row3 : decodesAll [
    ([0x18, 0x3A], .rev), ([0x18, 0x3B], .revw), ([0x18, 0x3C], .wav), ([0x18, 0x3D, 0b01011000], .tbl (.off5 .y (-8))),
    ([0x18, 0x3E], .stop), ([0x18, 0x3F, 0b10110001], .etbl (.auto .sp true 1)), ([0x18, 0x39], .trap 0x39),
    ([0x18, 0x39], .trap 0x39), ([0x18, 0x30], .trap 0x30)] = true := by decide

theorem test_decode_page2_row4 : decodesAll [
    ([0x18, 0x39], .trap 0x39)] = true := by decide

theorem test_decode_page2_row8 : decodesAll [
    ([0x18, 0x39], .trap 0x39)] = true := by decide

theorem test_decode_second_names : decodesAll [
    ([0x24, 0xFC], .bcc 0xFC), ([0x25, 0xFC], .bcs 0xFC), ([0x48], .asla), ([0x58], .aslb), ([0x59], .asld),
    ([0x68, 0b00101111], .asl (.idx (.auto .x false 15))), ([0x78, 0x12, 0x34], .asl (.ext 0x1234)),
    ([0xB7, 0b00010100], .tfr .b .d), ([0x1A, 0xE5], .leax (.acc .x .b)), ([0x19, 0xED], .leay (.acc .y .b)),
    ([0x10, 0xFE], .andcc 0xFE), ([0x10, 0xEF], .andcc 0xEF), ([0x10, 0xFD], .andcc 0xFD), ([0x14, 0x01], .orcc 0x01),
    ([0x14, 0x10], .orcc 0x10), ([0x14, 0x02], .orcc 0x02), ([0x1B, 0x9F], .leas (.off5 .sp (-1))),
    ([0x1B, 0x81], .leas (.off5 .sp 1)), ([0xB7, 0x02], .tfr .a .ccr), ([0xB7, 0x20], .tfr .ccr .a),
    ([0xB7, 0x75], .tfr .sp .x), ([0xB7, 0x76], .tfr .sp .y), ([0xB7, 0x57], .tfr .x .sp), ([0xB7, 0x67], .tfr .y .sp),
    ([0xB7, 0xC5], .exg .d .x), ([0xB7, 0xC6], .exg .d .y), ([0x18, 0x24, 0xFF, 0xFC], .lbcc 0xFFFC),
    ([0x18, 0x25, 0xFF, 0xFC], .lbcs 0xFFFC)] = true := by decide

/-! ### Single steps, from spec/95_test_vectors.md -/

/-- The reset state with the PC at $4000. -/
def idle : State := { State.reset with pc := 0x4000 }

/-- Some bytes of storage, and a program at the PC. -/
def loaded (s : State) (m : List (Word × Byte)) (prog : List Byte) : State :=
  (s.withBytes (m.map (·.1)) (m.map (·.2))).withBytes (fetchAddrs s.pc) prog

/-- The step answers a state that passes the test. -/
def after (s : State) (p : State → Bool) : Bool :=
  match step s with
  | .next t => p t
  | _ => false

/-- The instruction answers a state that passes the test. -/
def runs (i : Instr) (s : State) (p : State → Bool) : Bool :=
  match exec i s with
  | .next t => p t
  | _ => false

theorem test_ldx : after (loaded idle [(0xFFFF, 0x12), (0x0000, 0x34)] [0xFE, 0xFF, 0xFF]) (fun t =>
    t.x == 0x1234 && t.pc == 0x4003) = true := by decide

theorem test_ldd : after (loaded { idle with ccr := Ccr.ofByte 0xD0 } [] [0xCC, 0x00, 0x00]) (fun t =>
    t.d == 0x0000 && t.ccr.toByte == 0xD4 && t.pc == 0x4003) = true := by decide

theorem test_std : after (loaded { idle with a := 0xBE, b := 0xEF, ccr := Ccr.ofByte 0xD0 } [] [0x7C, 0x20, 0x00]) (fun t =>
    t.readByte 0x2000 == 0xBE && t.readByte 0x2001 == 0xEF && t.ccr.toByte == 0xD8 && t.pc == 0x4003) = true := by decide

theorem test_ldaa : after (loaded { idle with y := 0x2000 } [(0x1FF8, 0x77)] [0xA6, 0x58]) (fun t =>
    t.a == 0x77 && t.pc == 0x4002) = true := by decide

theorem test_staa : after (loaded { idle with a := 0x00, ccr := Ccr.ofByte 0xD1 } [(0x2000, 0x55)] [0x7A, 0x20,
      0x00]) (fun t =>
    t.readByte 0x2000 == 0x00 && t.ccr.toByte == 0xD5 && t.pc == 0x4003) = true := by decide

theorem test_leas : after (loaded { idle with sp := 0x0000, ccr := Ccr.ofByte 0xDF } [] [0x1B, 0x81]) (fun t =>
    t.sp == 0x0001 && t.ccr.toByte == 0xDF && t.pc == 0x4002) = true := by decide

theorem test_leax : after (loaded { idle with y := 0x2000 } [] [0x1A, 0x63]) (fun t =>
    t.x == 0x2004 && t.y == 0x2004 && t.pc == 0x4002) = true := by decide

theorem test_tfr : after (loaded { idle with a := 0x12, b := 0x34 } [] [0xB7, 0x40]) (fun t =>
    t.a == 0x34 && t.pc == 0x4002) = true := by decide

theorem test_exg : after (loaded { idle with a := 0x12, x := 0x5678 } [] [0xB7, 0xD0]) (fun t =>
    t.a == 0x78 && t.x == 0x0012 && t.pc == 0x4002) = true := by decide

theorem test_tab : after (loaded { idle with a := 0x80, b := 0x01, ccr := Ccr.ofByte 0xD3 } [] [0x18, 0x0E]) (fun t =>
    t.b == 0x80 && t.ccr.toByte == 0xD9 && t.pc == 0x4002) = true := by decide

theorem test_movb : after (loaded { idle with pc := 0x1000 } [(0x2000, 0x66)] [0x18, 0x09, 0xC2, 0x20, 0x00]) (fun t =>
    t.readByte 0x1007 == 0x66 && t.pc == 0x1005) = true := by decide

theorem test_movw : after (loaded { idle with x := 0x1000, y := 0x2000 } [(0x1000, 0xAB), (0x1001, 0xCD)] [0x18, 0x02,
      0x31, 0x71]) (fun t =>
    t.readByte 0x2000 == 0xAB && t.readByte 0x2001 == 0xCD && t.x == 0x1002 && t.y == 0x2002 &&
    t.pc == 0x4004) = true := by decide

theorem test_adca : after (loaded { idle with a := 0x7F, ccr := Ccr.ofByte 0xD0 } [] [0x89, 0x01]) (fun t =>
    t.a == 0x80 && t.ccr.toByte == 0xFA && t.pc == 0x4002) = true := by decide

theorem test_adda : after (loaded { idle with a := 0x80, ccr := Ccr.ofByte 0xDF } [] [0x8B, 0x80]) (fun t =>
    t.a == 0x00 && t.ccr.toByte == 0xD7 && t.pc == 0x4002) = true := by decide

theorem test_aba : after (loaded { idle with a := 0x80, b := 0x80, ccr := Ccr.ofByte 0xD1 } [] [0x18, 0x06]) (fun t =>
    t.a == 0x00 && t.b == 0x80 && t.ccr.toByte == 0xD7 && t.pc == 0x4002) = true := by decide

theorem test_addd : after (loaded { idle with a := 0x00, b := 0xFF, ccr := Ccr.ofByte 0xD0 } [] [0xC3, 0x00, 0x01]) (fun t =>
    t.d == 0x0100 && t.ccr.toByte == 0xD0 && t.pc == 0x4003) = true := by decide

theorem test_sbca : after (loaded { idle with a := 0x80, ccr := Ccr.ofByte 0xF0 } [] [0x82, 0x01]) (fun t =>
    t.a == 0x7F && t.ccr.toByte == 0xF2 && t.pc == 0x4002) = true := by decide

theorem test_cmpa : after (loaded { idle with a := 0x7F, ccr := Ccr.ofByte 0xFF } [] [0x81, 0xFF]) (fun t =>
    t.a == 0x7F && t.ccr.toByte == 0xFB && t.pc == 0x4002) = true := by decide

theorem test_sba : after (loaded { idle with a := 0x7F, b := 0xFF, ccr := Ccr.ofByte 0xF1 } [] [0x18, 0x16]) (fun t =>
    t.a == 0x80 && t.ccr.toByte == 0xFB && t.pc == 0x4002) = true := by decide

theorem test_subd : after (loaded { idle with a := 0x12, b := 0x34, ccr := Ccr.ofByte 0xFF } [] [0x83, 0x12, 0x34]) (fun t =>
    t.d == 0x0000 && t.ccr.toByte == 0xF4 && t.pc == 0x4003) = true := by decide

theorem test_cpd : after (loaded { idle with a := 0x12, b := 0x34, ccr := Ccr.ofByte 0xF0 } [] [0x8C, 0x12, 0x34]) (fun t =>
    t.d == 0x1234 && t.ccr.toByte == 0xF4 && t.pc == 0x4003) = true := by decide

theorem test_daa : after (loaded { idle with a := 0x42, ccr := Ccr.ofByte 0xF0 } [] [0x18, 0x07]) (fun t =>
    t.a == 0x48 && t.ccr.s && t.ccr.x && t.ccr.h && t.ccr.i && !t.ccr.n && !t.ccr.z && !t.ccr.c &&
    t.pc == 0x4002) = true := by decide

theorem test_nega : after (loaded { idle with a := 0x01, ccr := Ccr.ofByte 0xF2 } [] [0x40]) (fun t =>
    t.a == 0xFF && t.ccr.toByte == 0xF9 && t.pc == 0x4001) = true := by decide

theorem test_neg : after (loaded { idle with ccr := Ccr.ofByte 0xF5 } [(0x1234, 0x00)] [0x70, 0x12, 0x34]) (fun t =>
    t.readByte 0x1234 == 0x00 && t.ccr.toByte == 0xF4 && t.pc == 0x4003) = true := by decide

theorem test_coma : after (loaded { idle with a := 0xFF, ccr := Ccr.ofByte 0xF3 } [] [0x41]) (fun t =>
    t.a == 0x00 && t.ccr.toByte == 0xF5 && t.pc == 0x4001) = true := by decide

theorem test_com : after (loaded { idle with ccr := Ccr.ofByte 0xF5 } [(0x1234, 0x00)] [0x71, 0x12, 0x34]) (fun t =>
    t.readByte 0x1234 == 0xFF && t.ccr.toByte == 0xF9 && t.pc == 0x4003) = true := by decide

theorem test_inca : after (loaded { idle with a := 0xFF, ccr := Ccr.ofByte 0xF3 } [] [0x42]) (fun t =>
    t.a == 0x00 && t.ccr.toByte == 0xF5 && t.pc == 0x4001) = true := by decide

theorem test_inc : after (loaded { idle with ccr := Ccr.ofByte 0xF5 } [(0x1234, 0x7F)] [0x72, 0x12, 0x34]) (fun t =>
    t.readByte 0x1234 == 0x80 && t.ccr.toByte == 0xFB && t.pc == 0x4003) = true := by decide

theorem test_deca : after (loaded { idle with a := 0xFF, ccr := Ccr.ofByte 0xF2 } [] [0x43]) (fun t =>
    t.a == 0xFE && t.ccr.toByte == 0xF8 && t.pc == 0x4001) = true := by decide

theorem test_dec : after (loaded { idle with ccr := Ccr.ofByte 0xF5 } [(0x1234, 0x7F)] [0x73, 0x12, 0x34]) (fun t =>
    t.readByte 0x1234 == 0x7E && t.ccr.toByte == 0xF1 && t.pc == 0x4003) = true := by decide

theorem test_clra : after (loaded { idle with a := 0x5A, ccr := Ccr.ofByte 0xF3 } [] [0x87]) (fun t =>
    t.a == 0x00 && t.ccr.toByte == 0xF4 && t.pc == 0x4001) = true := by decide

theorem test_clr : after (loaded { idle with x := 0x1234, ccr := Ccr.ofByte 0xF1 } [(0x1234, 0x5A)] [0x69, 0x30]) (fun t =>
    t.x == 0x1235 && t.readByte 0x1234 == 0x00 && t.ccr.toByte == 0xF4 && t.pc == 0x4002) = true := by decide

theorem test_tsta : after (loaded { idle with a := 0x80, ccr := Ccr.ofByte 0xF3 } [] [0x97]) (fun t =>
    t.a == 0x80 && t.ccr.toByte == 0xF8 && t.pc == 0x4001) = true := by decide

theorem test_tst : after (loaded { idle with x := 0x1234, ccr := Ccr.ofByte 0xF1 } [(0x1234, 0x00)] [0xE7, 0x30]) (fun t =>
    t.x == 0x1235 && t.readByte 0x1234 == 0x00 && t.ccr.toByte == 0xF4 && t.pc == 0x4002) = true := by decide

theorem test_inx : after (loaded { idle with x := 0xFFFF, ccr := Ccr.ofByte 0xD0 } [] [0x08]) (fun t =>
    t.x == 0x0000 && t.ccr.toByte == 0xD4 && t.pc == 0x4001) = true := by decide

theorem test_dey : after (loaded { idle with y := 0x0001, ccr := Ccr.ofByte 0xD0 } [] [0x03]) (fun t =>
    t.y == 0x0000 && t.ccr.toByte == 0xD4 && t.pc == 0x4001) = true := by decide

theorem test_anda : after (loaded { idle with a := 0xFF, ccr := Ccr.ofByte 0xD2 } [] [0x84, 0x80]) (fun t =>
    t.a == 0x80 && t.ccr.toByte == 0xD8 && t.pc == 0x4002) = true := by decide

theorem test_oraa : after (loaded { idle with a := 0x00, ccr := Ccr.ofByte 0xD0 } [] [0x8A, 0x00]) (fun t =>
    t.a == 0x00 && t.ccr.toByte == 0xD4 && t.pc == 0x4002) = true := by decide

theorem test_eora : after (loaded { idle with a := 0xFF, ccr := Ccr.ofByte 0xD0 } [] [0x88, 0xFF]) (fun t =>
    t.a == 0x00 && t.ccr.toByte == 0xD4 && t.pc == 0x4002) = true := by decide

theorem test_bita : after (loaded { idle with a := 0xF0, ccr := Ccr.ofByte 0xD0 } [] [0x85, 0x0F]) (fun t =>
    t.a == 0xF0 && t.ccr.toByte == 0xD4 && t.pc == 0x4002) = true := by decide

theorem test_bset : after (loaded { idle with x := 0x1000 } [] [0x0C, 0x30, 0x01]) (fun t =>
    t.readByte 0x1000 == 0x01 && t.x == 0x1001 && t.pc == 0x4003) = true := by decide

theorem test_bclr : after (loaded { idle with ccr := Ccr.ofByte 0xD0 } [(0x2000, 0x77)] [0x1D, 0x20, 0x00, 0xFF]) (fun t =>
    t.readByte 0x2000 == 0x00 && t.ccr.toByte == 0xD4 && t.pc == 0x4004) = true := by decide

theorem test_andcc : after (loaded { idle with ccr := Ccr.ofByte 0xD0 } [] [0x10, 0xBF]) (fun t =>
    t.ccr.toByte == 0x90 && t.iDelay == false && t.pc == 0x4002) = true := by decide

theorem test_orcc : after (loaded { idle with ccr := Ccr.ofByte 0xC0 } [] [0x14, 0x10]) (fun t =>
    t.ccr.toByte == 0xD0 && t.pc == 0x4002) = true := by decide

theorem test_asla : after (loaded { idle with a := 0x80, ccr := Ccr.ofByte 0xF0 } [] [0x48]) (fun t =>
    t.a == 0x00 && t.ccr.toByte == 0xF7 && t.pc == 0x4001) = true := by decide

theorem test_asl : after (loaded { idle with ccr := Ccr.ofByte 0xF0 } [(0x1234, 0x80)] [0x78, 0x12, 0x34]) (fun t =>
    t.readByte 0x1234 == 0x00 && t.ccr.toByte == 0xF7 && t.pc == 0x4003) = true := by decide

theorem test_lsr : after (loaded { idle with ccr := Ccr.ofByte 0xF1 } [(0x1234, 0x80)] [0x74, 0x12, 0x34]) (fun t =>
    t.readByte 0x1234 == 0x40 && t.ccr.toByte == 0xF0 && t.pc == 0x4003) = true := by decide

theorem test_asr : after (loaded { idle with ccr := Ccr.ofByte 0xF0 } [(0x1234, 0x81)] [0x77, 0x12, 0x34]) (fun t =>
    t.readByte 0x1234 == 0xC0 && t.ccr.toByte == 0xF9 && t.pc == 0x4003) = true := by decide

theorem test_rol : after (loaded { idle with ccr := Ccr.ofByte 0xF1 } [(0x1234, 0x00)] [0x75, 0x12, 0x34]) (fun t =>
    t.readByte 0x1234 == 0x01 && t.ccr.toByte == 0xF0 && t.pc == 0x4003) = true := by decide

theorem test_rora : after (loaded { idle with a := 0xFE, ccr := Ccr.ofByte 0xF0 } [] [0x46]) (fun t =>
    t.a == 0x7F && t.ccr.toByte == 0xF0 && t.pc == 0x4001) = true := by decide

theorem test_ror : after (loaded { idle with ccr := Ccr.ofByte 0xF0 } [(0x1234, 0xFE)] [0x76, 0x12, 0x34]) (fun t =>
    t.readByte 0x1234 == 0x7F && t.ccr.toByte == 0xF0 && t.pc == 0x4003) = true := by decide

theorem test_asld : after (loaded { idle with a := 0x40, b := 0x00, ccr := Ccr.ofByte 0xD0 } [] [0x59]) (fun t =>
    t.d == 0x8000 && t.ccr.toByte == 0xDA && t.pc == 0x4001) = true := by decide

theorem test_lsrd : after (loaded { idle with a := 0x80, b := 0x00, ccr := Ccr.ofByte 0xD0 } [] [0x49]) (fun t =>
    t.d == 0x4000 && t.ccr.toByte == 0xD0 && t.pc == 0x4001) = true := by decide

theorem test_mul : after (loaded { idle with a := 0x80, b := 0x01, ccr := Ccr.ofByte 0xDE } [] [0x12]) (fun t =>
    t.d == 0x0080 && t.ccr.toByte == 0xDF && t.pc == 0x4001) = true := by decide

theorem test_emul : after (loaded 
      { idle with a := 0x01, b := 0x00, y := 0x0080, ccr := Ccr.ofByte 0xD2 } [] [0x13]) (fun t =>
    t.y == 0x0000 && t.d == 0x8000 && t.ccr.toByte == 0xD3 && t.pc == 0x4001) = true := by decide

theorem test_emuls : after (loaded { idle with a := 0x80, b := 0x00, y := 0x0001, ccr := Ccr.ofByte 0xD2 } [] [0x18,
      0x13]) (fun t =>
    t.y == 0xFFFF && t.d == 0x8000 && t.ccr.toByte == 0xDB && t.pc == 0x4002) = true := by decide

theorem test_ediv : after (loaded { idle with y := 0xFFFE, a := 0xFF, b := 0xFF, x := 0xFFFF, ccr := Ccr.ofByte 0xDF }
    [] [0x11]) (fun t =>
    t.y == 0xFFFF && t.d == 0xFFFE && t.x == 0xFFFF && t.ccr.s && t.ccr.x && !t.ccr.h && t.ccr.i && t.ccr.n && !t.ccr.z &&
    !t.ccr.v && !t.ccr.c && t.pc == 0x4001) = true := by decide

theorem test_edivs : after (loaded { idle with y := 0xFFFF, a := 0xFF, b := 0xF9, x := 0xFFFE, ccr := Ccr.ofByte 0xDF }
    [] [0x18, 0x14]) (fun t =>
    t.y == 0x0003 && t.d == 0xFFFF && t.x == 0xFFFE && t.ccr.s && t.ccr.x && !t.ccr.h && t.ccr.i && !t.ccr.n &&
    !t.ccr.z && !t.ccr.v && !t.ccr.c && t.pc == 0x4002) = true := by decide

theorem test_idiv : after (loaded { idle with a := 0x00, b := 0x00, x := 0x0003, ccr := Ccr.ofByte 0xDA } [] [0x18,
      0x10]) (fun t =>
    t.x == 0x0000 && t.d == 0x0000 && t.ccr.s && t.ccr.x && !t.ccr.h && t.ccr.i && t.ccr.n && t.ccr.z && !t.ccr.v &&
    !t.ccr.c && t.pc == 0x4002) = true := by decide

theorem test_idivs : after (loaded { idle with a := 0xFF, b := 0xF9, x := 0xFFFE, ccr := Ccr.ofByte 0xDA } [] [0x18,
      0x15]) (fun t =>
    t.x == 0x0003 && t.d == 0xFFFF && t.ccr.s && t.ccr.x && !t.ccr.h && t.ccr.i && !t.ccr.n && !t.ccr.z && !t.ccr.v &&
    !t.ccr.c && t.pc == 0x4002) = true := by decide

theorem test_fdiv : after (loaded { idle with a := 0x40, b := 0x00, x := 0x8000, ccr := Ccr.ofByte 0xDA } [] [0x18,
      0x11]) (fun t =>
    t.x == 0x8000 && t.d == 0x0000 && t.ccr.s && t.ccr.x && !t.ccr.h && t.ccr.i && t.ccr.n && !t.ccr.z && !t.ccr.v &&
    !t.ccr.c && t.pc == 0x4002) = true := by decide

theorem test_emacs : after (loaded { idle with x := 0x1000, y := 0x1002, ccr := Ccr.ofByte 0xD0 }
    [(0x1001, 0x01), (0x1003, 0x01), (0x2000, 0x7F), (0x2001, 0xFF), (0x2002, 0xFF), (0x2003, 0xFF)] [0x18, 0x12, 0x20,
      0x00]) (fun t =>
    t.readByte 0x2000 == 0x80 && t.readByte 0x2001 == 0x00 && t.readByte 0x2003 == 0x00 && t.ccr.toByte == 0xDB &&
    t.pc == 0x4004) = true := by decide

theorem test_bhi : after (loaded { idle with ccr := Ccr.ofByte 0xD8 } [] [0x22, 0x10]) (fun t =>
    t.pc == 0x4012 && t.ccr.toByte == 0xD8) = true := by decide

theorem test_bcc : after (loaded { idle with ccr := Ccr.ofByte 0xD8 } [] [0x24, 0x10]) (fun t =>
    t.pc == 0x4012 && t.ccr.toByte == 0xD8) = true := by decide

theorem test_bne : after (loaded { idle with ccr := Ccr.ofByte 0xD8 } [] [0x26, 0x10]) (fun t =>
    t.pc == 0x4012 && t.ccr.toByte == 0xD8) = true := by decide

theorem test_beq : after (loaded { idle with ccr := Ccr.ofByte 0xD8 } [] [0x27, 0x10]) (fun t =>
    t.pc == 0x4002 && t.ccr.toByte == 0xD8) = true := by decide

theorem test_bge : after (loaded { idle with ccr := Ccr.ofByte 0xD8 } [] [0x2C, 0x10]) (fun t =>
    t.pc == 0x4002 && t.ccr.toByte == 0xD8) = true := by decide

theorem test_bgt : after (loaded { idle with ccr := Ccr.ofByte 0xD8 } [] [0x2E, 0x10]) (fun t =>
    t.pc == 0x4002 && t.ccr.toByte == 0xD8) = true := by decide

theorem test_ble : after (loaded { idle with ccr := Ccr.ofByte 0xD8 } [] [0x2F, 0x10]) (fun t =>
    t.pc == 0x4012 && t.ccr.toByte == 0xD8) = true := by decide

theorem test_bra : after (loaded idle [] [0x20, 0x80]) (fun t =>
    t.pc == 0x3F82) = true := by decide

theorem test_lbra : after (loaded { idle with pc := 0x8000 } [] [0x18, 0x20, 0x7F, 0xFF]) (fun t =>
    t.pc == 0x0003) = true := by decide

theorem test_lbrn : after (loaded idle [] [0x18, 0x21, 0x7F, 0xFF]) (fun t =>
    t.pc == 0x4004) = true := by decide

theorem test_brset : after (loaded { idle with pc := 0x2000 } [(0x0010, 0x43)] [0x4E, 0x10, 0x81, 0x05]) (fun t =>
    t.pc == 0x2004) = true := by decide

theorem test_brclr : after (loaded { idle with pc := 0x2000 } [(0x1234, 0xF1)] [0x1F, 0x12, 0x34, 0x0F, 0xFB]) (fun t =>
    t.pc == 0x2005) = true := by decide

theorem test_dbeq : after (loaded { idle with b := 0x00, pc := 0x3000 } [] [0x04, 0x01, 0x10]) (fun t =>
    t.b == 0xFF && t.pc == 0x3003) = true := by decide

theorem test_dbne : after (loaded { idle with b := 0x02, pc := 0x3000 } [] [0x04, 0x39, 0xFB]) (fun t =>
    t.b == 0x01 && t.pc == 0x2FFE) = true := by decide

theorem test_ibeq : after (loaded { idle with a := 0xFF, pc := 0x3000 } [] [0x04, 0x80, 0x04]) (fun t =>
    t.a == 0x00 && t.pc == 0x3007) = true := by decide

theorem test_ibne : after (loaded { idle with a := 0x00, b := 0xFF, pc := 0x3000 } [] [0x04, 0xB4, 0xF0]) (fun t =>
    t.d == 0x0100 && t.pc == 0x2FF3) = true := by decide

theorem test_tbeq : after (loaded { idle with y := 0x0000, pc := 0x3000 } [] [0x04, 0x46, 0x7F]) (fun t =>
    t.pc == 0x3082) = true := by decide

theorem test_tbne : after (loaded { idle with sp := 0x0001, pc := 0x3000 } [] [0x04, 0x77, 0x00]) (fun t =>
    t.pc == 0x2F03) = true := by decide

theorem test_jmp : after (loaded { idle with a := 0x00, b := 0x02 } [(0x4004, 0x51), (0x4005, 0x00)] [0x05, 0xFF]) (fun t =>
    t.pc == 0x5100) = true := by decide

theorem test_bsr : after (loaded { idle with sp := 0x0C00, pc := 0x5000 } [] [0x07, 0x10]) (fun t =>
    t.sp == 0x0BFE && t.readByte 0x0BFE == 0x50 && t.readByte 0x0BFF == 0x02 && t.pc == 0x5012) = true := by decide

theorem test_jsr : after (loaded { idle with sp := 0x0C00 } [] [0x15, 0x00]) (fun t =>
    t.pc == 0x0000) = true := by decide

theorem test_rts : after (loaded { idle with sp := 0x0BFE } [(0x0BFE, 0x50), (0x0BFF, 0x03)] [0x3D]) (fun t =>
    t.pc == 0x5003 && t.sp == 0x0C00) = true := by decide

theorem test_call : after (loaded { idle with x := 0x1000, a := 0x00, b := 0x04, sp := 0x0C00, ppage := 0x02 }
    [(0x1004, 0x30), (0x1005, 0x10), (0x1006, 0x07)] [0x4B, 0xE7]) (fun t =>
    t.pc == 0x3010 && t.ppage == 0x07 && t.sp == 0x0BFD && t.readByte 0x0BFD == 0x02 && t.readByte 0x0BFE == 0x40 &&
    t.readByte 0x0BFF == 0x02) = true := by decide

theorem test_rtc : after (loaded { idle with sp := 0x0BFD, ppage := 0x05 }
    [(0x0BFE, 0x40), (0x0BFF, 0x04), (0x0BFD, 0x02)] [0x0A]) (fun t =>
    t.ppage == 0x02 && t.pc == 0x4004 && t.sp == 0x0C00) = true := by decide

theorem test_pshb : after (loaded { idle with sp := 0x0000, b := 0xA5 } [] [0x37]) (fun t =>
    t.sp == 0xFFFF && t.readByte 0xFFFF == 0xA5 && t.pc == 0x4001) = true := by decide

theorem test_pshd : after (loaded { idle with a := 0x12, b := 0x34, sp := 0x0C00 } [] [0x3B]) (fun t =>
    t.sp == 0x0BFE && t.readByte 0x0BFE == 0x12 && t.readByte 0x0BFF == 0x34 && t.pc == 0x4001) = true := by decide

theorem test_pulc : after (loaded { idle with ccr := Ccr.ofByte 0xD0, sp := 0x0BFF } [(0x0BFF, 0xC5)] [0x38]) (fun t =>
    t.ccr.toByte == 0xC5 && t.iDelay == false && t.pc == 0x4001) = true := by decide

theorem test_pshc : after (loaded { idle with ccr := Ccr.ofByte 0xD0, sp := 0x0C00 } [] [0x39]) (fun t =>
    t.readByte 0x0BFF == 0xD0 && t.sp == 0x0BFF && t.pc == 0x4001) = true := by decide

theorem test_pulx : after (loaded { idle with sp := 0x0BFE } [(0x0BFE, 0xBE), (0x0BFF, 0xEF)] [0x30]) (fun t =>
    t.x == 0xBEEF && t.sp == 0x0C00 && t.pc == 0x4001) = true := by decide

theorem test_mem : after (loaded { idle with x := 0x1000, y := 0x2000, a := 0x40 }
    [(0x1000, 0x40), (0x1001, 0xC0), (0x1002, 0x08), (0x1003, 0x04), (0x2000, 0x55)] [0x01]) (fun t =>
    t.readByte 0x2000 == 0x00 && t.x == 0x1004 && t.y == 0x2001 && t.a == 0x40 && t.pc == 0x4001) = true := by decide +kernel

theorem test_wav : after (loaded { idle with b := 0x02, x := 0x2000, y := 0x1000 }
    [(0x2000, 0x10), (0x2001, 0x20), (0x1000, 0x80), (0x1001, 0x40)] [0x18, 0x3C]) (fun t =>
    t.y == 0x0000 && t.d == 0x1000 && t.x == 0x00C0 && t.ccr.s && t.ccr.x && t.ccr.i && t.ccr.z &&
    t.pc == 0x4002) = true := by decide +kernel

theorem test_wavr : after (loaded { idle with b := 0x00, x := 0x2002, y := 0x1002, sp := 0x0BF0 }
    [(0x2001, 0x20), (0x1001, 0x40), (0x0BF0, 0x00), (0x0BF1, 0x00), (0x0BF2, 0x08), (0x0BF3, 0x00), (0x0BF4, 0x00),
      (0x0BF5, 0x80)] [0x3C]) (fun t =>
    t.y == 0x0000 && t.d == 0x1000 && t.x == 0x00C0 && t.sp == 0x0BF6 && t.pc == 0x4001) = true := by decide +kernel

theorem test_maxa : after (loaded { idle with a := 0x50, x := 0x1000, ccr := Ccr.ofByte 0xDF } [(0x1000, 0x30)] [0x18,
      0x18, 0x00]) (fun t =>
    t.a == 0x50 && t.ccr.toByte == 0xD0 && t.pc == 0x4003) = true := by decide

theorem test_maxm : after (loaded { idle with a := 0x90, y := 0x1000, ccr := Ccr.ofByte 0xD0 } [(0x1000, 0x10)] [0x18,
      0x1C, 0x40]) (fun t =>
    t.readByte 0x1000 == 0x90 && t.ccr.toByte == 0xD8 && t.pc == 0x4003) = true := by decide

theorem test_emaxd : after (loaded { idle with a := 0x12, b := 0x34, x := 0x1000, ccr := Ccr.ofByte 0xD0 }
    [(0x1000, 0x80)] [0x18, 0x1A, 0x00]) (fun t =>
    t.d == 0x8000 && t.ccr.toByte == 0xDB && t.pc == 0x4003) = true := by decide

theorem test_emaxm : after (loaded { idle with a := 0x40, b := 0x00, x := 0x1000, ccr := Ccr.ofByte 0xD0 }
    [(0x1000, 0x3F), (0x1001, 0xFF)] [0x18, 0x1E, 0x00]) (fun t =>
    t.readByte 0x1000 == 0x40 && t.readByte 0x1001 == 0x00 && t.ccr.toByte == 0xD0 && t.pc == 0x4003) = true := by decide

theorem test_tbl : after (loaded { idle with x := 0x1000, b := 0x58, ccr := Ccr.ofByte 0xD2 }
    [(0x1000, 0x10), (0x1001, 0x20)] [0x18, 0x3D, 0x00]) (fun t =>
    t.a == 0x15 && t.ccr.toByte == 0xD3 && t.pc == 0x4003) = true := by decide

theorem test_etbl : after (loaded { idle with x := 0x1000, b := 0xFF, ccr := Ccr.ofByte 0xD2 }
    [(0x1000, 0x00), (0x1001, 0x00), (0x1002, 0xFF), (0x1003, 0xFF)] [0x18, 0x3F, 0x00]) (fun t =>
    t.d == 0xFEFF && t.ccr.toByte == 0xDA && t.pc == 0x4003) = true := by decide

theorem test_swi : after (loaded 
      { idle with sp := 0x0C00, a := 0x12, b := 0x34, x := 0x5678, y := 0x9ABC, ccr := Ccr.ofByte 0x81 }
    [(0xFFF6, 0xE0)] [0x3F]) (fun t =>
    t.readByte 0x0BF8 == 0x34 && t.readByte 0x0BF9 == 0x12 && t.readByte 0x0BFA == 0x56 && t.readByte 0x0BFB == 0x78 &&
    t.readByte 0x0BFC == 0x9A && t.readByte 0x0BFD == 0xBC && t.readByte 0x0BF7 == 0x81 && t.readByte 0x0BFE == 0x40 &&
    t.readByte 0x0BFF == 0x01 && t.sp == 0x0BF7 && t.ccr.toByte == 0x91 && t.pc == 0xE000) = true := by decide

theorem test_trap : after (loaded 
      { idle with sp := 0x0C00, a := 0x12, b := 0x34, x := 0x5678, y := 0x9ABC, ccr := Ccr.ofByte 0x81 }
    [(0xFFF8, 0xE1)] [0x18, 0xFF]) (fun t =>
    t.readByte 0x0BF8 == 0x34 && t.readByte 0x0BF9 == 0x12 && t.readByte 0x0BFA == 0x56 && t.readByte 0x0BFB == 0x78 &&
    t.readByte 0x0BFC == 0x9A && t.readByte 0x0BFD == 0xBC && t.readByte 0x0BF7 == 0x81 && t.readByte 0x0BFE == 0x40 &&
    t.readByte 0x0BFF == 0x02 && t.sp == 0x0BF7 && t.ccr.toByte == 0x91 && t.pc == 0xE100) = true := by decide

theorem test_rti : after (loaded { idle with sp := 0x0BF7, ccr := Ccr.ofByte 0x91 }
    [(0x0BF8, 0x34), (0x0BF9, 0x12), (0x0BFA, 0x56), (0x0BFB, 0x78), (0x0BFC, 0x9A), (0x0BFD, 0xBC), (0x0BF7, 0x81),
      (0x0BFE, 0x40), (0x0BFF, 0x01)] [0x0B]) (fun t =>
    t.ccr.toByte == 0x81 && t.a == 0x12 && t.b == 0x34 && t.x == 0x5678 && t.y == 0x9ABC && t.sp == 0x0C00 &&
    t.pc == 0x4001) = true := by decide

theorem test_wai : after (loaded 
      { idle with sp := 0x0C00, a := 0x12, b := 0x34, x := 0x5678, y := 0x9ABC, ccr := Ccr.ofByte 0x80 }
    [] [0x3E]) (fun t =>
    t.readByte 0x0BF8 == 0x34 && t.readByte 0x0BF9 == 0x12 && t.readByte 0x0BFA == 0x56 && t.readByte 0x0BFB == 0x78 &&
    t.readByte 0x0BFC == 0x9A && t.readByte 0x0BFD == 0xBC && t.readByte 0x0BF7 == 0x80 && t.readByte 0x0BFE == 0x40 &&
    t.readByte 0x0BFF == 0x01 && t.sp == 0x0BF7 && t.ccr.toByte == 0x80) = true := by decide

theorem test_stop : after (loaded 
      { idle with sp := 0x0C00, a := 0x12, b := 0x34, x := 0x5678, y := 0x9ABC, ccr := Ccr.ofByte 0x50 }
    [] [0x18, 0x3E]) (fun t =>
    t.readByte 0x0BF8 == 0x34 && t.readByte 0x0BF9 == 0x12 && t.readByte 0x0BFA == 0x56 && t.readByte 0x0BFB == 0x78 &&
    t.readByte 0x0BFC == 0x9A && t.readByte 0x0BFD == 0xBC && t.readByte 0x0BF7 == 0x50 && t.readByte 0x0BFE == 0x40 &&
    t.readByte 0x0BFF == 0x02 && t.sp == 0x0BF7 && t.ccr.toByte == 0x50) = true := by decide

theorem test_bgnd : after (loaded idle [] [0x00]) (fun t =>
    t.pc == 0x4001 && t.tmp2 == 0x4001) = true := by decide

theorem test_nop : after (loaded idle [] [0xA7]) (fun t =>
    t.pc == 0x4001) = true := by decide

/-- One antecedent of a rule list lowers A to the fuzzy input and leaves the PC at the REV (R344, R345). -/
theorem test_rev : after (loaded { idle with a := 0xFF, x := 0x2000, y := 0x1000 } [(0x1001, 0x40), (0x2000, 0x01)]
    [0x18, 0x3A]) (fun t => t.a == 0x40 && t.x == 0x2001 && t.y == 0x1000 && t.pc == 0x4000) = true := by decide

/-- A weighted separator: A becomes (weight + 1) x A / 256, Y the next weight (R346). -/
theorem test_revw : after (loaded { idle with
      a := 0x80, x := 0x2000, y := 0x3000, ccr := Ccr.ofByte 0xD1 } [(0x2000, 0xFF), (0x2001, 0xFE), (0x3000, 0x7F)]
    [0x18, 0x3B]) (fun t => t.a == 0x40 && t.x == 0x2002 && t.y == 0x3001 && t.ccr.v && t.ccr.c) = true := by decide

/-- The unsigned smaller operand is kept, the flags are those of the subtraction (R356, R358, R360, R362). -/
theorem test_minimum : (after (loaded { idle with a := 0x50, x := 0x1000, ccr := Ccr.ofByte 0xDF } [(0x1000, 0x30)]
      [0x18, 0x19, 0x00]) (fun t => t.a == 0x30 && t.ccr.toByte == 0xD0) &&
    after (loaded { idle with a := 0x10, x := 0x1000, ccr := Ccr.ofByte 0xD0 } [(0x1000, 0x90)] [0x18, 0x1D, 0x00])
      (fun t => t.readByte 0x1000 == 0x10 && t.ccr.toByte == 0xDB)) = true := by decide

/-- The prebyte does what the page-2 instruction after it does (R91). -/
theorem test_prebyte : runs .page2Prebyte (loaded { idle with a := 0x80, b := 1 } [] [0x18, 0x06])
    (fun t => t.a == 0x81 && t.pc == 0x4002) = true := by decide

/-- A loop postbyte with bits 7:6 = 11 is refused by name (R114, U3). -/
theorem test_unassigned_loop_postbyte : step (loaded idle [] [0x04, 0xC1, 0x10]) = .refused .loopPostbyteUnassigned := rfl

/-- With I = 0 the IRQ pin's handler is entered at the boundary, the frame holding the PC of the instruction not executed
(60_exceptions.md R506, R508). -/
theorem test_irq : after (loaded { idle with sp := 0x0C00, ccr := Ccr.ofByte 0xC0, inputs := [{ irq := [irqPin.number] }] }
    [(0xFFF2, 0xE0)] [0xA7]) (fun t => t.pc == 0xE000 && t.sp == 0x0BF7 && t.ccr.toByte == 0xD0 &&
      t.readByte 0x0BFE == 0x40 && t.readByte 0x0BF7 == 0xC0) = true := by decide

/-- A device with three I-maskable sources, of the vectors $FFF2, $FF06 and $FFC8 (00_scope.md R7). -/
def manned : Device := { Device.default with irqSources := [irqPin, ⟨3, 3⟩, ⟨5, 100⟩] }

/-- A source's vector is the one IRQ_SOURCES gives it, and a number it does not hold requests nothing (92_eei_decisions.md
D18). -/
theorem test_irq_sources : let s := { idle with ccr := Ccr.ofByte 0xC0, dev := manned }
    s.interruptPending { irq := [3, 5] } = some ⟨0xFFC8, false⟩ ∧ s.interruptPending { irq := [4] } = none ∧
      { s with dev := { manned with promoted := some 3 } }.interruptPending { irq := [3, 5] } = some ⟨0xFF06, false⟩ := by
  decide

/-- A reset enters its vector with S, X and I set and stacks nothing (70_reset_and_hazards.md R551). -/
theorem test_reset : after (loaded { idle with sp := 0x0C00, inputs := [{ clockMonitor := true, cop := true }] }
    [(0xFFFC, 0xE1)] [0xA7]) (fun t => t.pc == 0xE100 && t.ccr.s && t.ccr.x && t.ccr.i && t.readByte 0x0BFF == 0) = true := by
  decide

/-- A consequent of REV written over the next rule byte: that byte is used as it was read ahead, $05 (R344(d)). -/
theorem test_rev_reads_ahead : after (loaded { idle with a := 0x80, x := 0x2000, y := 0x2000, ccr := Ccr.ofByte 0xD2 }
    [(0x2000, 0x01), (0x2001, 0x05)] [0x18, 0x3A]) (fun t => t.readByte 0x2001 == 0x80 && t.ruleAhead == some 5 &&
      runs .rev t fun u => u.readByte 0x2005 == 0x80 && u.x == 0x2002) = true := by decide

/-- A consequent of REVW written over the next rule word: that word is used as it was read ahead, $3000 (R346(e)). -/
theorem test_revw_reads_ahead : after (loaded { idle with a := 0x80, x := 0x2000, ccr := Ccr.ofByte 0xD2 }
    [(0x2000, 0x20), (0x2001, 0x02), (0x2002, 0x30)] [0x18, 0x3B]) (fun t => t.readByte 0x2002 == 0x80 &&
      runs .revw t fun u => u.readByte 0x3000 == 0x80 && u.readByte 0x8000 == 0) = true := by decide

/-- A reset after the first byte write of STD leaves the high byte stored and the low byte not (R551). -/
theorem test_reset_cuts_a_store : after (loaded { idle with a := 0x12, b := 0x34, inputs := [{ lateReset := some (.cop, 1) }] }
    [(0xFFFA, 0xE2)] [0x7C, 0x10, 0x00]) (fun t => t.readByte 0x1000 == 0x12 && t.readByte 0x1001 == 0 && t.pc == 0xE200 &&
      t.ccr.x && t.writeLimit == none) = true := by decide

/-- The BDM host changes a register, memory and the address of return (60_exceptions.md R535). -/
theorem test_bdm_host : after { idle with
      run := .bdmActive, inputs := [{ bdmWrites := [.x 0x1234, .memory 0x2000 7, .tmp2 0x5000], bdmExit := true }] }
    (fun t => t.x == 0x1234 && t.readByte 0x2000 == 7 && t.pc == 0x5000 && t.run == .running) = true := by decide

/-- Device registers at $0000 to $00FF, ROM at $F000 to $FFFF, and $4000 to $40FF another name of $5000 to $50FF. -/
def wired : State := { idle with dev := { Device.default with
  regions := [⟨0, 0x100, .register⟩, ⟨0xF000, 0x1000, .rom⟩], aliases := [⟨0x4000, 0x100, 0x5000⟩] } }

/-- A device register answers a read and takes a write by the device's own functions (20_memory.md R70). -/
theorem test_device_register : wired.readByte 0x0010 = Config.deviceRead 0 0x10 ∧
    (wired.writeByte 0x0010 5).devices = Config.deviceWrite 0 0x10 5 ∧ (wired.writeByte 0x0010 5).mem = [] :=
  ⟨rfl, rfl, rfl⟩

/-- The second byte of a word is read after the device has seen the read of the first, and INC writes after its read
(20_memory.md R64, R65). -/
theorem test_reads_in_order : wired.readWord 0x0010 =
      word (Config.deviceRead 0 0x10) (Config.deviceRead (Config.deviceAfterRead 0 0x10) 0x11) ∧
    ∃ t, exec (.inc (.ext 0x0010)) wired = .next t ∧ t.devices =
      Config.deviceWrite (Config.deviceAfterRead 0 0x10) 0x10 (Config.deviceRead 0 0x10 + 1) := ⟨rfl, _, rfl, rfl⟩

/-- Two names of one byte (92_eei_decisions.md D7). -/
theorem test_alias : (wired.writeByte 0x4003 9).readByte 0x5003 = 9 ∧ (wired.writeByte 0x5003 9).readByte 0x4003 = 9 ∧
    (wired.writeByte 0x5003 9).readByte 0x4004 = 0 := by decide

/-! ### The hypotheses of the statements are met -/

theorem plain_stores {s : State} (h : s.dev = Device.default) (a : Word) : s.Stores a := by
  simp [State.Stores, h, Device.default, Device.kindAt]

theorem plain_notPpage {s : State} (h : s.dev = Device.default) (a : Word) : s.NotPpage a := by
  simp [State.NotPpage, h, Device.default]

theorem plain_apart {s : State} (h : s.dev.aliases = []) (ea : Word) {n : Nat} (hn : n ≤ 65536) : s.Apart ea n :=
  State.apart_of_no_aliases h ea hn

/-- A device with expanded memory, two page bits and PPAGE at $0030; BDM enabled. -/
def paged : Device := { Device.default with
  hasExpandedMemory := true, ppageBits := 0x03, ppageAddr := some 0x0030, bdmEnabled := true }

theorem paged_stores {s : State} (h : s.dev = paged) {a : Word} (ha : a ≠ 0x0030) : s.Stores a := by
  refine ⟨?_, by simp [h, paged, Device.default, Device.kindAt]⟩
  simpa [h, paged] using Ne.symm ha

theorem witness_decodeOfEncode : (Instr.trap 0x30).WellFormed ∧ (Instr.trap 0x39).WellFormed ∧ (Instr.trap 0x40).WellFormed ∧
    (Instr.trap 0xFF).WellFormed ∧ Instr.abx.WellFormed := ⟨rfl, rfl, rfl, rfl, rfl⟩

theorem witness_decodedIsWellFormed :
    decode [0x86, 0x80, 0x01] = .ok (.ldaa (.imm 0x80), [0x01]) ∧ decode [0xA7] = .ok (.nop, []) := ⟨rfl, rfl⟩

theorem witness_everyInstructionCompletes : (∀ lb rr, Instr.nop ≠ .unassignedLoopPostbyte lb rr) ∧ Instr.nop ≠ .page2Prebyte :=
  ⟨nofun, nofun⟩

theorem witness_rowsThatAreNoInstruction : 0xC0 ≤ (0xC0 : Byte).toNat ∧ 0xC0 ≤ (0xFF : Byte).toNat ∧
    decode (0x18 :: (fetchBytes (loaded idle [] [0x18, 0x06])).tail) = .ok (.aba, [0, 0, 0, 0]) :=
  ⟨by decide, by decide, rfl⟩

theorem witness_refusedBytes : ((0x02 : Byte).toNat < 0xC0 ∧ (0x02 : Byte).toNat % 8 = 2) ∧
    ((0xBB : Byte).toNat < 0xC0 ∧ (0xBB : Byte).toNat % 8 = 3) ∧
    ((∃ r n, Idx.ind16 .pc 0xFFFF = .ind16 r n) ∧ (∃ r, Idx.indD .x = .indD r) ∧ (∃ r n, Idx.off9 .y 0x100 = .off9 r n) ∧
      ∃ r n, Idx.off16 .sp 0 = .off16 r n) ∧
    ((∀ r n, Idx.acc .x .d ≠ .ind16 r n) ∧ (∀ r, Idx.acc .x .d ≠ .indD r) ∧ (∀ r n, Idx.acc .x .d ≠ .off9 r n) ∧
      ∀ r n, Idx.acc .x .d ≠ .off16 r n) ∧
    (loaded idle [] [0x04, 0x02]).Quiet ∧
    decode (fetchBytes (loaded idle [] [0x04, 0x02])) = .error .loopRegisterUnassigned ∧
    decode (fetchBytes (loaded idle [] [0x1A, 0xE7])) = .error .indexedFormNotAccepted :=
  ⟨by decide, by decide, ⟨⟨_, _, rfl⟩, ⟨_, rfl⟩, ⟨_, _, rfl⟩, ⟨_, _, rfl⟩⟩, ⟨nofun, nofun, nofun, nofun⟩,
    ⟨rfl, ⟨rfl, rfl⟩, rfl, rfl⟩, rfl, rfl⟩

/-- A quiet boundary and a NOP: the state the witnesses of the steps use. -/
def ready : State := loaded idle [] [0xA7]

theorem ready_quiet : ready.Quiet := ⟨rfl, ⟨rfl, rfl⟩, rfl, rfl⟩

theorem witness_stepRuns : ready.Quiet ∧ decode (fetchBytes ready) = .ok (.nop, [0, 0, 0, 0, 0]) ∧
    (∃ t, exec .nop ready.popInput = .next t) ∧ (loaded idle [] [0x04, 0xC0]).Quiet ∧
    decode (fetchBytes (loaded idle [] [0x04, 0xC0])) = .ok (.unassignedLoopPostbyte 0xC0 0, [0, 0, 0]) ∧
    exec (.unassignedLoopPostbyte 0xC0 0) (loaded idle [] [0x04, 0xC0]).popInput = .refused .loopPostbyteUnassigned ∧
    ∀ r ∈ ready.dev.regions, r.kind ≠ .register :=
  ⟨ready_quiet, rfl, ⟨_, rfl⟩, ⟨rfl, ⟨rfl, rfl⟩, rfl, rfl⟩, rfl, rfl, nofun⟩

theorem witness_pcAdvances : mayLeaveLine .nop = false ∧ mayLeaveLine (.movw (.imm 0) (.ext 0)) = false := ⟨rfl, rfl⟩

/-- `ready` with one boundary sample of the environment. -/
def presented (q : Inputs) : State := { ready with inputs := [q] }

theorem witness_resetIsTakenFirst : ∀ q ∈ [{ resetPin := true }, { clockMonitor := true }, ({ cop := true } : Inputs)],
    ((presented q).input.resetPin || (presented q).input.clockMonitor || (presented q).input.cop) = true := by decide

theorem witness_resetInTheMiddle : ∀ q ∈ [{ lateReset := some (.pin, 0) }, ({ lateReset := some (.cop, 2) } : Inputs)],
    let s := { presented q with ccr := Ccr.ofByte 0x80 }
    let x := { s with inputs := [{ q with xirq := true }] }
    (s.run = .running ∧ s.input.resetVector = none ∧ s.input.lateReset = q.lateReset ∧
      (s.input.tag && s.dev.bdmEnabled) = false ∧ s.interruptPending s.input = none ∧ s.writeLimit = none) ∧
    (x.input.resetVector = none ∧ x.input.lateReset = q.lateReset ∧
      x.interruptPending x.input = some ⟨0xFFF4, true⟩) := by decide

theorem witness_resetInTheMiddle_runs : let s := presented { lateReset := some (.clockMonitor, 1) }
    decode (fetchBytes s) = .ok (.nop, [0, 0, 0, 0, 0]) ∧
      ∃ u, exec .nop { s.popInput with writeLimit := some 1 } = .next u := ⟨rfl, _, rfl⟩

theorem witness_stepKeepsMemoryCanonical : ready.Inv ∧ ∃ t, step ready = .next t := ⟨⟨rfl, rfl⟩, _, rfl⟩

theorem witness_onlyResetOrXirqSetsX :
    let s := { ready with ccr := Ccr.ofByte 0x80, inputs := [{ irq := [irqPin.number] }, {}] }
    (∀ q ∈ s.inputs, q.Mild) ∧ s.ccr.x = false ∧ ∃ t, step s = .next t :=
  ⟨by simp [Inputs.Mild, Inputs.NoReset, Inputs.resetVector], rfl, _, rfl⟩

/-- The paged device, page 1 selected. -/
def banked : State := { idle with dev := paged, ppage := 1 }

theorem plain_notRegister {s : State} (h : s.dev = Device.default) (a : Word) : s.NotRegister a := by
  simp [State.NotRegister, h, Device.default, Device.kindAt]

theorem witness_byteWriteThenRead : ready.Inv ∧ ready.NotPpage 0xFFFF ∧ ready.NotPpage 0 ∧ ready.NotRegister 0xFFFF ∧
    ready.dev.aliases = [] ∧ banked.Inv ∧ banked.NotPpage 0x0031 ∧ banked.dev.ppageAddr = some 0x0030 :=
  ⟨⟨rfl, rfl⟩, plain_notPpage rfl _, plain_notPpage rfl _, plain_notRegister rfl _, rfl, ⟨rfl, rfl⟩,
    (paged_stores rfl (by decide)).1, rfl⟩

theorem witness_deviceRegisters : wired.Inv ∧ (wired.NotPpage 0x00FF ∧ wired.NotPpage 0x0100) ∧
    wired.dev.kindAt (wired.physKey 0x0000) = some .register ∧ wired.dev.kindAt (wired.physKey 0x00FF) = some .register ∧
    wired.NotRegister 0x0100 := ⟨⟨rfl, rfl⟩, ⟨nofun, nofun⟩, rfl, rfl, nofun⟩

theorem witness_deviceAccesses : let s := { wired with x := 0x1000, y := 0x1FFE }
    s.Inv ∧ s.RegistersFrom 0x00FC 4 ∧ ∀ b ∈ [s.x, s.x + 1, s.y, s.y + 1], s.NotRegister b := by
  refine ⟨⟨rfl, rfl⟩, fun k hk => ?_, fun b hb => ?_⟩
  · obtain rfl | rfl | rfl | rfl : k = 0 ∨ k = 1 ∨ k = 2 ∨ k = 3 := by omega
    all_goals exact ⟨nofun, rfl⟩
  · simp only [List.mem_cons, List.not_mem_nil, or_false] at hb
    rcases hb with rfl | rfl | rfl | rfl <;> nofun

theorem witness_bytesStored : ready.Inv ∧ (∀ a, ready.NotPpage a) ∧ banked.Inv ∧ (∀ a, a ≠ 0x0030 → banked.NotPpage a) ∧
    (∀ a, ready.NotRegister a) ∧ ready.Apart 0xFFFF 4 :=
  ⟨⟨rfl, rfl⟩, plain_notPpage rfl, ⟨rfl, rfl⟩, fun _ h => (paged_stores rfl h).1, plain_notRegister rfl,
    plain_apart rfl _ (by decide)⟩

theorem witness_programPages : banked.Inv ∧ banked.dev.hasExpandedMemory = true ∧ banked.Stores 0x8000 ∧ banked.Stores 0xBFFF ∧
    banked.NotPpage 0x7FFF ∧ banked.NotPpage 0xC000 ∧ (0x8000 ≤ (0x8000 : Word).toNat ∧ (0xBFFF : Word).toNat < 0xC000) ∧
    (0xFD &&& banked.dev.ppageBits = banked.ppage &&& banked.dev.ppageBits) ∧
    ((0 : Byte) &&& banked.dev.ppageBits ≠ banked.ppage &&& banked.dev.ppageBits) ∧
    ((0x7FFF : Word).toNat < 0x8000 ∧ 0xC000 ≤ (0xC000 : Word).toNat) ∧ banked.dev.aliases = [] :=
  ⟨⟨rfl, rfl⟩, rfl, paged_stores rfl (by decide), paged_stores rfl (by decide), (paged_stores rfl (by decide)).1,
    (paged_stores rfl (by decide)).1, by decide, by decide, by decide, by decide, rfl⟩

theorem witness_autoForms : ∀ r post k, Idx.off5 .x 3 ≠ .auto r post k := nofun

theorem witness_transferCells : SexSrc.reg .ccr = .ccr ∧ SexDst.reg .sp = .sp := ⟨rfl, rfl⟩

theorem witness_branchesAfterCompare : ∃ t, exec (.cmpa (.imm 0x80)) { idle with a := 0x7F } = .next t := ⟨_, rfl⟩

theorem witness_decimalAdjust : isBcd 0x99 = true ∧ isBcd 0x00 = true ∧
    ∃ t, exec (.adca (.imm 0x99)) { idle with a := 0x99 } = .next t := ⟨rfl, rfl, _, rfl⟩

theorem witness_unsignedDivisions : (let s := { idle with x := 1, b := 0xFF }; 0 < s.x.toNat ∧
      65536 * s.y.toNat + s.dNat < 65536 * s.x.toNat) ∧
    (let s := { idle with x := 0xFFFF, y := 0xFFFE, a := 0xFF, b := 0xFE }; 0 < s.x.toNat ∧
      65536 * s.y.toNat + s.dNat < 65536 * s.x.toNat ∧ s.dNat < s.x.toNat) := by decide

theorem witness_signedDivisions : (let s := { idle with x := 1, y := 0xFFFF, a := 0x80 }
      let n := (s.y ++ BitVec.ofNat 16 s.dNat).toInt
      s.x.toInt ≠ 0 ∧ -32768 = n.tdiv s.x.toInt ∧ n.tdiv s.x.toInt ≤ 32767) ∧
    (let s := { idle with x := 0xFFFF, y := 0xFFFF, a := 0x80, b := 1 }
      let n := (s.y ++ BitVec.ofNat 16 s.dNat).toInt
      s.x.toInt ≠ 0 ∧ -32768 ≤ n.tdiv s.x.toInt ∧ n.tdiv s.x.toInt = 32767 ∧
        ¬((BitVec.ofNat 16 s.dNat).toInt = -32768 ∧ s.x.toInt = -1)) := by decide

theorem witness_divisionByZeroAndOverflow : (idle.x = 0) ∧
    (let s := { idle with x := 1, b := 1, y := 1 };
      s.x ≠ 0 ∧ s.x.toNat ≤ s.dNat ∧ 65536 * s.x.toNat ≤ 65536 * s.y.toNat + s.dNat) ∧
    (let s := { idle with x := 1, a := 0x80 };
      s.x ≠ 0 ∧ 32767 < (s.y ++ BitVec.ofNat 16 s.dNat).toInt.tdiv s.x.toInt) ∧
    (let s := { idle with x := 1, y := 0xFFFF, a := 0x7F, b := 0xFF };
      s.x ≠ 0 ∧ (s.y ++ BitVec.ofNat 16 s.dNat).toInt.tdiv s.x.toInt < -32768) ∧
    (let s := { idle with x := 0xFFFF, a := 0x80 }; s.x = 0xFFFF ∧ s.dNat = 0x8000) := by decide

/-- A state whose rule list starts with the word `e`, A being `a` and the flags `c`. -/
def ruled (e : Word) (a c : Byte) : State :=
  loaded { idle with a := a, x := 0x2000, y := 0x1000, ccr := Ccr.ofByte c }
    [(0x2000, hiByte e), (0x2001, loByte e), (0x1001, 0x40)] []

theorem witness_revElements : (ruled 0xFF00 0 0).readByte 0x2000 = 0xFF ∧ (ruled 0xFE00 0 0).readByte 0x2000 = 0xFE ∧
    (let s := ruled 0xFD00 0x50 0; (s.readByte s.x).toNat < 0xFE ∧ s.ccr.v = false) ∧
    (let s := ruled 0x0100 0x40 2; let f := s.readByte (s.y + BitVec.ofNat 16 (s.readByte s.x).toNat)
      (s.readByte s.x).toNat < 0xFE ∧ s.ccr.v = true ∧ s.a.toNat ≤ f.toNat) ∧
    (let s := ruled 0x0100 0x41 2; let f := s.readByte (s.y + BitVec.ofNat 16 (s.readByte s.x).toNat)
      (s.readByte s.x).toNat < 0xFE ∧ s.ccr.v = true ∧ f.toNat < s.a.toNat) := by decide

theorem witness_revwElements : (ruled 0xFFFF 0 0).readWord 0x2000 = 0xFFFF ∧
    (let s := ruled 0xFFFE 0 2; s.readWord s.x = 0xFFFE ∧ s.ccr.v = true) ∧
    (let s := ruled 0xFFFE 0 0; s.readWord s.x = 0xFFFE ∧ s.ccr.v = false ∧ s.ccr.c = false) ∧
    (let s := ruled 0xFFFE 0 1; s.readWord s.x = 0xFFFE ∧ s.ccr.v = false ∧ s.ccr.c = true) ∧
    (let s := ruled 0xFFFD 0 0; (s.readWord s.x).toNat < 0xFFFE ∧ s.ccr.v = false) ∧
    (let s := ruled 0x1001 0x40 2; (s.readWord s.x).toNat < 0xFFFE ∧ s.ccr.v = true ∧
      s.a.toNat ≤ (s.readByte (s.readWord s.x)).toNat) ∧
    (let s := ruled 0x1001 0x41 2; (s.readWord s.x).toNat < 0xFFFE ∧ s.ccr.v = true ∧
      (s.readByte (s.readWord s.x)).toNat < s.a.toNat) := by decide

/-- The element read ahead is the one used: a byte for REV, a word for REVW. -/
theorem witness_readAhead : ({ ruled 0xFD00 0 0 with ruleAhead := some 0x00FF } : State).ruleAhead = some 0x00FF ∧
    (BitVec.ofNat 8 (0x00FF : Word).toNat : Byte) = 0xFF ∧ (ruled 0 0 0).ruleAhead = none := ⟨rfl, rfl, rfl⟩

theorem witness_weightedAverageSums : (∀ q ∈ idle.inputs.take 256, q.NoReset ∧ idle.interruptPending q = none) ∧
    (let s := { idle with b := 1, inputs := [{ irq := [irqPin.number], xirq := true }, { resetPin := true }] };
      ∀ q ∈ s.inputs.take s.b.toNat, q.NoReset ∧ s.interruptPending q = none) := by
  constructor
  · simp [idle, State.reset]
  · unfold Inputs.NoReset; decide

/-- WAV of three pairs, an XIRQ in its second pass. -/
def averaging : State :=
  { idle with b := 3, sp := 0x0C00, ccr := Ccr.ofByte 0x90, inputs := [{ irq := [irqPin.number] }, { xirq := true }, {}] }

theorem witness_weightedAverageInterrupted : averaging.Inv ∧
    averaging.inputs = [({ irq := [irqPin.number] } : Inputs)] ++ ({ xirq := true } : Inputs) :: [({} : Inputs)] ∧
    (∀ p ∈ [({ irq := [irqPin.number] } : Inputs)], p.NoReset ∧ averaging.interruptPending p = none) ∧
    ({ xirq := true } : Inputs).NoReset ∧ averaging.interruptPending { xirq := true } = some ⟨0xFFF4, true⟩ ∧
    1 < (if averaging.b = 0 then 256 else averaging.b.toNat) ∧ 1 < averaging.b.toNat ∧
    (∀ k, averaging.Stores (averaging.sp - 15 + BitVec.ofNat 16 k)) ∧ averaging.Apart (averaging.sp - 15) 15 ∧
    (∀ j, j < 6 → averaging.Stores (averaging.sp - 6 + BitVec.ofNat 16 j) ∧
      averaging.physKey 0xFFF4 ≠ averaging.physKey (averaging.sp - 6 + BitVec.ofNat 16 j) ∧
      averaging.physKey (0xFFF4 + 1) ≠ averaging.physKey (averaging.sp - 6 + BitVec.ofNat 16 j)) := by
  refine ⟨⟨rfl, rfl⟩, rfl, by unfold Inputs.NoReset; decide, ⟨rfl, rfl⟩, by decide, by decide, by decide,
    fun _ => plain_stores rfl _, plain_apart rfl _ (by decide), fun j hj => ⟨plain_stores rfl _, ?_⟩⟩
  revert j; decide

theorem witness_weightedAverageReset : ({ cop := true } : Inputs).resetVector = some 0xFFFA ∧
    (let q : Inputs := { lateReset := some (.pin, 3) };
      q.resetVector = none ∧ averaging.interruptPending q = none ∧ q.lateReset = some (.pin, 3)) := by decide

theorem witness_callThenReturn : let s := { banked with sp := 0x8000 }
    s.Inv ∧ (∀ k, k < 3 → s.Stores (s.sp - 3 + BitVec.ofNat 16 k)) ∧
      s.Apart (s.sp - 3) 3 ∧ (∀ k, k < 3 → (s.sp - 3 + BitVec.ofNat 16 k).toNat < 0x8000) ∧
      ∃ t, exec (.call (.ext 0x8000 2)) s = .next t := by
  refine ⟨⟨rfl, rfl⟩, fun k hk => paged_stores rfl ?_, plain_apart rfl _ (by decide), by decide, _, rfl⟩
  revert k; decide

theorem witness_stopModes : ({ idle with ccr := Ccr.ofByte 0x50 } : State).ccr.s = false ∧ idle.ccr.s = true := ⟨rfl, rfl⟩

theorem witness_interruptsAreTaken :
    let s := { presented { irq := [5, irqPin.number], tag := true } with ccr := Ccr.ofByte 0xC0, dev := manned }
    let x := { presented { irq := [irqPin.number], xirq := true } with ccr := Ccr.ofByte 0x90 }
    (s.run = .running ∧ s.input.NoReset ∧ (s.input.tag && s.dev.bdmEnabled) = false ∧
      s.interruptPending s.input = some ⟨0xFFF2, false⟩) ∧
    (x.run = .running ∧ x.input.NoReset ∧ (x.input.tag && x.dev.bdmEnabled) = false ∧
      x.interruptPending x.input = some ⟨0xFFF4, true⟩) := by unfold Inputs.NoReset; decide

theorem witness_requestSelection :
    let s := { idle with ccr := Ccr.ofByte 0x80, dev := manned }
    let q : Inputs := { irq := [irqPin.number, 3, 7] }
    (({ xirq := true } : Inputs).xirq = true ∧ s.ccr.x = false) ∧
    (q.xirq = false ∧ idle.ccr.i = true ∧ ({ idle with iDelay := true } : State).iDelay = true ∧
      ∀ n ∈ s.dev.irqSources, n.number ∉ ({ irq := [7] } : Inputs).irq) ∧
    (s.ccr.i = false ∧ s.iDelay = false ∧ s.dev.Selects (· ∈ q.irq) irqPin) ∧
    { s.dev with promoted := some 3 }.Selects (· ∈ q.irq) ⟨3, 3⟩ := by
  unfold Device.Selects; decide

theorem witness_clearingIDelays : let s := loaded idle [] [0x10, 0xEF]
    s.Quiet ∧ decode (fetchBytes s) = .ok (.andcc 0xEF, [0, 0, 0, 0]) ∧ s.ccr.i = true ∧
      (∃ t, step s = .next t ∧ t.ccr.i = false ∧ ({} : Inputs).xirq = false) ∧
      writesDelay .nop = false ∧ Instr.nop ≠ .rev ∧ Instr.nop ≠ .revw :=
  ⟨⟨rfl, ⟨rfl, rfl⟩, rfl, rfl⟩, rfl, rfl, ⟨_, rfl, rfl, rfl⟩, rfl, nofun, nofun⟩

theorem witness_returnFromInterrupt : let s := presented { irq := [irqPin.number] }
    let u := fun v : Byte => { s with ccr := s.ccr.fromData v }
    (u 0x90).interruptPending s.input = none ∧ (u 0x80).interruptPending s.input = some ⟨0xFFF2, false⟩ := by decide

theorem witness_swiThenRti : let s := { ready with sp := 0 }
    s.Inv ∧ (∀ k, k < 9 → s.Stores (s.sp - 9 + BitVec.ofNat 16 k)) ∧ s.Apart (s.sp - 9) 9 ∧ s.input.xirq = false ∧
      (∀ n ∈ s.dev.irqSources, n.number ∉ s.input.irq) ∧ (∃ t, exec .swi s = .next t) ∧ (s.ccr.x = true → s.ccr.x = true) :=
  ⟨⟨rfl, rfl⟩, fun _ _ => plain_stores rfl _, plain_apart rfl _ (by decide), rfl, by decide, ⟨_, rfl⟩, id⟩

theorem witness_leavingWait : let s := { presented { irq := [irqPin.number] } with run := .wait }
    s.run = .wait ∧ s.input.NoReset ∧ s.interruptPending s.input = none ∧
      { s with ccr := Ccr.ofByte 0xC0 }.interruptPending s.input = some ⟨0xFFF2, false⟩ := by
  unfold Inputs.NoReset; decide

theorem witness_leavingStop :
    let s := fun (q : Inputs) (c : Byte) => { presented q with run := .stopped, ccr := Ccr.ofByte c }
    (∀ q ∈ [{ xirq := true }, { irq := [irqPin.number] }, ({} : Inputs)], (s q 0).run = .stopped ∧ (s q 0).input.NoReset) ∧
    ((s { xirq := true } 0x10).input.xirq = true ∧ (s { xirq := true } 0x10).ccr.x = false ∧
      (s { xirq := true } 0x50).ccr.x = true) ∧
    (let u := { s { irq := [irqPin.number, 5] } 0x40 with dev := manned }
      let d := { manned with stopWake := [5, 7], promoted := some 5 }
      u.input.xirq = false ∧ u.ccr.i = false ∧
        u.dev.Selects (fun k => k ∈ u.input.irq ∧ k ∈ u.dev.stopWake) irqPin ∧
        d.Selects (fun k => k ∈ u.input.irq ∧ k ∈ d.stopWake) ⟨5, 100⟩) ∧
    ((s { irq := [irqPin.number] } 0x50).ccr.i = true ∧ (let u := { s { irq := [5] } 0 with dev := manned }
      ∀ n ∈ u.dev.irqSources, n.number ∈ u.input.irq → n.number ∉ u.dev.stopWake)) := by
  unfold Inputs.NoReset Device.Selects; decide

theorem witness_backgroundMode : idle.dev.bdmEnabled = false ∧ banked.dev.bdmEnabled = true ∧
    (let s := { banked with inputs := [{ tag := true }] };
      s.run = .running ∧ s.input.NoReset ∧ s.input.tag = true ∧ s.dev.bdmEnabled = true) ∧
    (let s := { idle with run := .bdmActive }; s.run = .bdmActive ∧ s.input.NoReset ∧ s.input.bdmExit = false ∧
      s.input.bdmWrites = []) ∧
    (let s := { idle with run := .bdmActive, inputs := [{ bdmExit := true }] };
      s.run = .bdmActive ∧ s.input.NoReset ∧ s.input.bdmExit = true ∧ s.input.bdmWrites = []) := by
  unfold Inputs.NoReset; decide

theorem witness_bdmHost : let l : List BdmWrite := [.a 1, .b 2, .x 3, .y 4, .sp 5, .ccr 0xFF, .tmp1 6, .tmp2 7, .tmp3 8, .ppage 9,
      .iDelay true, .memory 0x10000 10, .devices 11]
    let s := { idle with run := .bdmActive, inputs := [{ bdmWrites := l, bdmExit := true }] }
    s.run = .bdmActive ∧ s.input.NoReset ∧ s.input.bdmWrites = l := ⟨rfl, ⟨rfl, rfl⟩, rfl⟩

end Sys2Proof.Tests
end

section
/-! PROOFS. What every step keeps (00_scope.md R7, 20_memory.md R62): each operation, each shape of an instruction, each
instruction, the boundary, and so the step. -/

namespace Sys2Proof.Machine

/-! ### What an operation keeps -/

/-- What every step keeps: the device parameters, the canonical form of memory (also while a reset limits the writes), and
a good state. -/
structure Keeps (s t : State) : Prop where
  dev : t.dev = s.dev
  wf : s.mem.wf = true → t.mem.wf = true
  inv : s.Inv → t.Inv

theorem Keeps.trans {s t u : State} (h : Keeps s t) (h' : Keeps t u) : Keeps s u :=
  ⟨h'.dev.trans h.dev, h'.wf ∘ h.wf, h'.inv ∘ h.inv⟩

/-- An update of fields other than memory, the device parameters and the limit on writes. -/
theorem Keeps.of_eq {s t : State} (hd : t.dev = s.dev) (hm : t.mem = s.mem) (hl : t.writeLimit = s.writeLimit) :
    Keeps s t :=
  ⟨hd, fun h => hm ▸ h, fun ⟨h, h'⟩ => ⟨hm ▸ h, hl.trans h'⟩⟩

/-- Such an update after something else. -/
theorem Keeps.update {s t u : State} (h : Keeps s t) (hd : u.dev = t.dev) (hm : u.mem = t.mem)
    (hl : u.writeLimit = t.writeLimit) : Keeps s u := h.trans (.of_eq hd hm hl)

theorem touch_keeps (s : State) (a : Word) : Keeps s (s.touch a) := .of_eq rfl rfl rfl

theorem touchWord_keeps (s : State) (a : Word) : Keeps s (s.touchWord a) := .of_eq rfl rfl rfl

theorem touchLong_keeps (s : State) (a : Word) : Keeps s (s.touchLong a) :=
  (touchWord_keeps s a).trans (touchWord_keeps _ (a + 2))

theorem pulled8_keeps (s : State) : Keeps s s.pulled8 := .of_eq rfl rfl rfl

theorem pulled16_keeps (s : State) : Keeps s s.pulled16 := (touchWord_keeps s s.sp).update rfl rfl rfl

theorem writeByte_keeps (s : State) (a : Word) (v : Byte) : Keeps s (s.writeByte a v) :=
  ⟨by simp, (State.writeByte_wf · a v), (State.writeByte_inv · a v)⟩

theorem writeWord_keeps (s : State) (a v : Word) : Keeps s (s.writeWord a v) :=
  (writeByte_keeps s a _).trans (writeByte_keeps _ (a + 1) _)

theorem writeLong_keeps (s : State) (a : Word) (v : BitVec 32) : Keeps s (s.writeLong a v) :=
  (writeWord_keeps s a _).trans (writeWord_keeps _ (a + 2) _)

theorem push8_keeps (s : State) (v : Byte) : Keeps s (s.push8 v) :=
  ⟨by simp, (State.push8_wf · v), (State.push8_inv · v)⟩

theorem push16_keeps (s : State) (v : Word) : Keeps s (s.push16 v) :=
  ⟨by simp, (State.push16_wf · v), (State.push16_inv · v)⟩

theorem stackFrame_keeps (s : State) (ret : Word) : Keeps s (s.stackFrame ret) :=
  ⟨by simp, (State.stackFrame_wf · ret), (State.stackFrame_inv · ret)⟩

theorem exceptionEntry_keeps (s : State) (vector ret : Word) (setX : Bool) :
    Keeps s (s.exceptionEntry vector ret setX) :=
  ((touchWord_keeps s vector).trans (stackFrame_keeps _ ret)).update rfl rfl rfl

theorem modify8_keeps {f : Byte → Byte} {flags : Byte → State → State} (hflags : ∀ m u, Keeps u (flags m u))
    (ea : Word) (s : State) : Keeps s (modify8 f flags ea s) :=
  (touch_keeps s ea).trans ((writeByte_keeps _ ea _).trans (hflags _ _))

theorem call_keeps (s : State) (npc target : Word) (page : Byte) : Keeps s (s.call npc target page) :=
  have hpage : Keeps s { s with ppage := page } := .of_eq rfl rfl rfl
  ((hpage.trans (push16_keeps _ npc)).trans (push8_keeps _ s.ppage)).update rfl rfl rfl

theorem nzvc_keeps {w : Nat} (s : State) (r : Alu w) : Keeps s (s.nzvc r) := .of_eq rfl rfl rfl

theorem nzv0_keeps {w : Nat} (s : State) (v : BitVec w) : Keeps s (s.nzv0 v) := .of_eq rfl rfl rfl

theorem setNzvc_keeps (s : State) (n z v c : Bool) : Keeps s (s.setNzvc n z v c) := .of_eq rfl rfl rfl

theorem setZvc_keeps (s : State) (z v c : Bool) : Keeps s (s.setZvc z v c) := .of_eq rfl rfl rfl

theorem nzc_keeps {w : Nat} (s : State) (res : BitVec w) (c : Bool) : Keeps s (s.nzc res c) := .of_eq rfl rfl rfl

theorem setD_keeps (s : State) (v : Word) : Keeps s (s.setD v) := .of_eq rfl rfl rfl

/-- A remainder in D and a quotient in X. -/
theorem setDX_keeps (s : State) (v x : Word) : Keeps s { s.setD v with x := x } := .of_eq rfl rfl rfl

theorem quotientSaturated_keeps (s : State) : Keeps s s.quotientSaturated := .of_eq rfl rfl rfl

theorem freeHnzvc_keeps (s : State) : Keeps s s.freeHnzvc := .of_eq rfl rfl rfl

theorem freeHnzc_keeps (s : State) : Keeps s s.freeHnzc := .of_eq rfl rfl rfl

theorem freeHnz_keeps (s : State) : Keeps s s.freeHnz := .of_eq rfl rfl rfl

theorem loopCount_keeps (r : LoopReg) (delta : Word) (s : State) : Keeps s (loopCount r delta s).1 := by
  cases r <;> exact .of_eq rfl rfl rfl

theorem xreg_write_keeps (r : XReg) (first : Bool) (v : Word) (s : State) : Keeps s (r.write first v s) := by
  cases r
  case tmp => cases first <;> exact .of_eq rfl rfl rfl
  all_goals exact .of_eq rfl rfl rfl

theorem drewIf_keeps (s : State) (used : Bool) : Keeps s (s.drewIf used) := by
  cases used <;> exact .of_eq rfl rfl rfl

theorem transferOp_keeps (src dst : XReg) (s : State) : Keeps s (transferOp src dst s) :=
  ((xreg_write_keeps dst false _ s).trans (drewIf_keeps _ _)).update rfl rfl rfl

theorem exchangeOp_keeps (r1 r2 : XReg) (s : State) : Keeps s (exchangeOp r1 r2 s) :=
  (((xreg_write_keeps r1 true _ s).trans (xreg_write_keeps r2 false _ _)).trans (drewIf_keeps _ _)).update rfl rfl rfl

theorem ruleElement_keeps (s : State) (fa : Word) (f : Byte) : Keeps s (s.ruleElement fa f) :=
  ⟨ruleElement_dev s fa f, (ruleElement_wf · fa f), (ruleElement_inv · fa f)⟩

theorem tookByte_keeps (s : State) : Keeps s s.tookByte := .of_eq (by simp) (by simp) (by simp)

theorem tookWord_keeps (s : State) : Keeps s s.tookWord := .of_eq (by simp) (by simp) (by simp)

theorem byteAhead_keeps (s : State) : Keeps s s.byteAhead := .of_eq (by simp) (by simp) (by simp)

theorem wordAhead_keeps (s : State) : Keeps s s.wordAhead := .of_eq (by simp) (by simp) (by simp)

theorem applyWeight_keeps (s : State) : Keeps s s.applyWeight := by
  unfold State.applyWeight
  split <;> exact .of_eq rfl rfl rfl

theorem wavLoop_keeps (here npc : Word) (k : Nat) (s : State) : Keeps s (wavLoop here npc k s) :=
  ⟨wavLoop_dev here npc k s, wavLoop_wf here npc k, wavLoop_inv here npc k⟩

theorem pullSums_keeps (s : State) : Keeps s s.pullSums := .of_eq (by simp) (by simp) (by simp)

theorem finishWav_keeps (s : State) (npc : Word) : Keeps s (s.finishWav npc) := .of_eq rfl rfl rfl

theorem addPending_keeps (s : State) : Keeps s s.addPending := .of_eq rfl rfl rfl

theorem returnFromInterrupt_keeps (s : State) : Keeps s s.returnFromInterrupt := by
  unfold State.returnFromInterrupt
  dsimp only
  split <;> exact .of_eq (by simp) (by simp) (by simp)

/-! ### Forming an operand -/

theorem idx_side_keeps (i : Idx) (npc : Word) (s : State) : Keeps s (i.side npc s) :=
  .of_eq (by simp) (by simp) (by simp)

theorem src8_side_keeps (o : Src8) (npc : Word) (s : State) : Keeps s (o.side npc s) :=
  .of_eq (by simp) (by simp) (by simp)

theorem src16_side_keeps (o : Src16) (npc : Word) (s : State) : Keeps s (o.side npc s) :=
  .of_eq (by simp) (by simp) (by simp)

theorem memOp_side_keeps (o : MemOp) (npc : Word) (s : State) : Keeps s (o.side npc s) :=
  .of_eq (by simp) (by simp) (by simp)

theorem extIdx_side_keeps (o : ExtIdx) (npc : Word) (s : State) : Keeps s (o.side npc s) :=
  .of_eq (by simp) (by simp) (by simp)

theorem movSrc8_side_keeps (o : MovSrc8) (npc : Word) (s : State) : Keeps s (o.side npc s) :=
  .of_eq (by simp) (by simp) (by simp)

theorem movSrc16_side_keeps (o : MovSrc16) (npc : Word) (s : State) : Keeps s (o.side npc s) :=
  .of_eq (by simp) (by simp) (by simp)

/-! ### What a meaning keeps, by the shape of the instruction -/

/-- Whatever state the meaning `r` answers, it has what every step keeps of `s`; a refusal answers none. -/
def AnswerKeeps (s : State) (r : Result) : Prop := ∀ t, r = .next t → Keeps s t

theorem AnswerKeeps.next {s t : State} (h : Keeps s t) : AnswerKeeps s (.next t) := by
  rintro _ ⟨⟩; exact h

theorem AnswerKeeps.refused (s : State) (r : Refusal) : AnswerKeeps s (.refused r) := by
  simp [AnswerKeeps]

theorem inherent_keeps {f : State → State} (hf : ∀ u, Keeps u (f u)) (n : Nat) (s : State) :
    AnswerKeeps s (inherent n f s) :=
  .next ((hf s).update rfl rfl rfl)

theorem withSrc8_keeps {f : Byte → State → State} (hf : ∀ m u, Keeps u (f m u)) (o : Src8) (s : State) :
    AnswerKeeps s (withSrc8 o f s) :=
  .next (((src8_side_keeps o _ s).trans (hf _ _)).update rfl rfl rfl)

theorem withSrc16_keeps {f : Word → State → State} (hf : ∀ m u, Keeps u (f m u)) (o : Src16) (s : State) :
    AnswerKeeps s (withSrc16 o f s) :=
  .next (((src16_side_keeps o _ s).trans (hf _ _)).update rfl rfl rfl)

theorem withMemOp_keeps {f : Word → State → State} (hf : ∀ ea u, Keeps u (f ea u)) (k : Nat) (o : MemOp) (s : State) :
    AnswerKeeps s (withMemOp k o f s) :=
  .next (((memOp_side_keeps o _ s).trans (hf _ _)).update rfl rfl rfl)

theorem withExtIdx_keeps {f : Word → State → State} (hf : ∀ ea u, Keeps u (f ea u)) (o : ExtIdx) (s : State) :
    AnswerKeeps s (withExtIdx o f s) :=
  .next (((extIdx_side_keeps o _ s).trans (hf _ _)).update rfl rfl rfl)

theorem withIdx_keeps {f : Word → State → State} (hf : ∀ ea u, Keeps u (f ea u)) (k : Nat) (i : Idx) (s : State) :
    AnswerKeeps s (withIdx k i f s) :=
  .next (((idx_side_keeps i _ s).trans (hf _ _)).update rfl rfl rfl)

theorem bitBranch_keeps (test : Byte → Bool) (ad : MemOp) (rr : Byte) (s : State) :
    AnswerKeeps s (bitBranch test ad rr s) :=
  .next ((memOp_side_keeps ad _ s).update rfl rfl rfl)

theorem loopPrimitive_keeps (delta : Word) (onZero : Bool) (r : LoopReg) (off : BitVec 9) (s : State) :
    AnswerKeeps s (loopPrimitive delta onZero r off s) :=
  .next ((loopCount_keeps r delta s).update rfl rfl rfl)

/-! ### Single instructions -/

theorem execMem_keeps (s : State) : AnswerKeeps s (execMem s) := by
  refine inherent_keeps (fun u => ?_) 1 s
  have hread := (touchWord_keeps u u.x).trans (touchWord_keeps _ (u.x + 2))
  refine .trans ?_ (freeHnzvc_keeps _)
  exact (hread.trans (writeByte_keeps _ u.y _)).update rfl rfl rfl

theorem execEmacs_keeps (hhll : Word) (s : State) : AnswerKeeps s (execEmacs hhll s) := by
  refine inherent_keeps (fun u => ?_) 4 s
  have hread := ((touchWord_keeps u u.x).trans (touchWord_keeps _ u.y)).trans (touchLong_keeps _ hhll)
  exact (hread.trans (writeLong_keeps _ hhll _)).trans (setNzvc_keeps _ _ _ _ _)

theorem execTbl_keeps (ix : Idx) (s : State) : AnswerKeeps s (execTbl ix s) := by
  refine withIdx_keeps (fun ea u => ?_) 2 ix s
  refine .trans ?_ (nzc_keeps _ _ _)
  exact ((touch_keeps u ea).trans (touch_keeps _ (ea + 1))).update rfl rfl rfl

theorem execEtbl_keeps (ix : Idx) (s : State) : AnswerKeeps s (execEtbl ix s) := by
  refine withIdx_keeps (fun ea u => ?_) 2 ix s
  have hread := (touchWord_keeps u ea).trans (touchWord_keeps _ (ea + 2))
  exact (hread.trans (setD_keeps _ _)).trans (nzc_keeps _ _ _)

theorem execEdiv_keeps (s : State) : AnswerKeeps s (execEdiv s) := by
  refine inherent_keeps (fun u => ?_) 1 s
  dsimp only
  repeat' split
  all_goals exact .of_eq rfl rfl rfl

theorem execEdivs_keeps (s : State) : AnswerKeeps s (execEdivs s) := by
  refine inherent_keeps (fun u => ?_) 2 s
  dsimp only
  repeat' split
  all_goals exact .of_eq rfl rfl rfl

theorem execFdiv_keeps (s : State) : AnswerKeeps s (execFdiv s) := by
  refine inherent_keeps (fun u => ?_) 2 s
  dsimp only
  split
  · exact (quotientSaturated_keeps u).trans (setZvc_keeps _ _ _ _)
  · exact (setDX_keeps u _ _).trans (setZvc_keeps _ _ _ _)

theorem execIdiv_keeps (s : State) : AnswerKeeps s (execIdiv s) := by
  refine inherent_keeps (fun u => ?_) 2 s
  dsimp only
  split
  · exact (quotientSaturated_keeps u).trans (setZvc_keeps _ _ _ _)
  · exact (setDX_keeps u _ _).trans (setZvc_keeps _ _ _ _)

theorem execIdivs_keeps (s : State) : AnswerKeeps s (execIdivs s) := by
  refine inherent_keeps (fun u => ?_) 2 s
  dsimp only
  repeat' split
  all_goals exact .of_eq rfl rfl rfl

theorem execMovb_keeps (src : MovSrc8) (dst : ExtIdx) (s : State) : AnswerKeeps s (execMovb src dst s) :=
  .next <| (((movSrc8_side_keeps src _ s).trans (extIdx_side_keeps dst _ _)).trans (writeByte_keeps _ _ _)).update
    rfl rfl rfl

theorem execMovw_keeps (src : MovSrc16) (dst : ExtIdx) (s : State) : AnswerKeeps s (execMovw src dst s) :=
  .next <| (((movSrc16_side_keeps src _ s).trans (extIdx_side_keeps dst _ _)).trans (writeWord_keeps _ _ _)).update
    rfl rfl rfl

theorem execJmp_keeps (ad : ExtIdx) (s : State) : AnswerKeeps s (execJmp ad s) :=
  .next ((extIdx_side_keeps ad _ s).update rfl rfl rfl)

theorem execJsr_keeps (ad : MemOp) (s : State) : AnswerKeeps s (execJsr ad s) :=
  .next (((memOp_side_keeps ad _ s).trans (push16_keeps _ _)).update rfl rfl rfl)

theorem execCall_keeps (t : CallTarget) (s : State) : AnswerKeeps s (execCall t s) := by
  cases t with
  | ext a pg => exact .next (call_keeps s _ _ _)
  | idx i pg => exact .next ((idx_side_keeps i _ s).trans (call_keeps _ _ _ _))
  | ind i => exact .next (((idx_side_keeps i _ s).trans (touch_keeps _ _)).trans (call_keeps _ _ _ _))

theorem execStop_keeps (s : State) : AnswerKeeps s (execStop s) := by
  unfold execStop
  split
  · exact .next (.of_eq rfl rfl rfl)
  · exact .next ((stackFrame_keeps s _).update rfl rfl rfl)

theorem execBgnd_keeps (s : State) : AnswerKeeps s (execBgnd s) := by
  unfold execBgnd
  dsimp only
  split <;> exact .next (.of_eq rfl rfl rfl)

theorem execRev_keeps (s : State) : AnswerKeeps s (execRev s) := by
  have ht := tookByte_keeps s
  unfold execRev
  dsimp only
  split
  · exact .next ((ht.trans (freeHnzc_keeps _)).update rfl rfl rfl)
  · split
    · refine .next (.trans ?_ (freeHnzc_keeps _))
      exact (ht.trans (byteAhead_keeps _)).update rfl rfl rfl
    · have hread (fa : Word) := (ht.trans (touch_keeps _ fa)).trans (byteAhead_keeps _)
      exact .next (((hread _).trans (ruleElement_keeps _ _ _)).trans (freeHnzc_keeps _))

theorem execRevw_keeps (s : State) : AnswerKeeps s (execRevw s) := by
  have ht := tookWord_keeps s
  unfold execRevw
  dsimp only
  split
  · exact .next ((ht.trans (freeHnz_keeps _)).update rfl rfl rfl)
  · split
    · split
      · refine .next (.trans ?_ (freeHnz_keeps _))
        exact (ht.trans (wordAhead_keeps _)).update rfl rfl rfl
      · refine .next (.trans ?_ (freeHnz_keeps _))
        exact ((ht.trans (applyWeight_keeps _)).trans (wordAhead_keeps _)).update rfl rfl rfl
    · have hread (fa : Word) := (ht.trans (touch_keeps _ fa)).trans (wordAhead_keeps _)
      exact .next (((hread _).trans (ruleElement_keeps _ _ _)).trans (freeHnz_keeps _))

theorem execWav_keeps (s : State) : AnswerKeeps s (execWav s) :=
  have hclear : Keeps s { s with tmp1 := 0, tmp2 := 0, tmp3 := 0 } := .of_eq rfl rfl rfl
  .next (hclear.trans (wavLoop_keeps _ _ _ _))

theorem execWavr_keeps (s : State) : AnswerKeeps s (execWavr s) := by
  have hu := (pullSums_keeps s).trans (addPending_keeps _)
  refine .next ?_
  split
  · exact hu.trans (finishWav_keeps _ _)
  · exact hu.trans (wavLoop_keeps _ _ _ _)

/-! ### Every instruction -/

/-- Every instruction but the prebyte, whose meaning is another instruction's. -/
theorem exec_keeps_of_ne {i : Instr} (hi : i ≠ .page2Prebyte) (s : State) : AnswerKeeps s (exec i s) := by
  cases i <;> dsimp only [exec]
  case page2Prebyte => exact absurd rfl hi
  case unassignedLoopPostbyte => exact .refused s _
  case adda src | addb src | adca src | adcb src | suba src | subb src | sbca src | sbcb src | cmpa src | cmpb src
    | ldaa src | ldab src | anda src | andb src | oraa src | orab src | eora src | eorb src | bita src | bitb src =>
    refine withSrc8_keeps (fun _ _ => ?_) src s
    exact .of_eq rfl rfl rfl
  case addd src | subd src | cpd src | cps src | cpx src | cpy src | ldd src | lds src | ldx src | ldy src =>
    refine withSrc16_keeps (fun _ _ => ?_) src s
    exact .of_eq rfl rfl rfl
  case aba | abx | aby | sba | daa | inca | incb | deca | decb | des | dex | dey | ins | inx | iny | cba | tsta | tstb
    | clra | clrb | coma | comb | nega | negb | asla | aslb | asld | asra | asrb | lsla | lslb | lsld | lsra | lsrb
    | lsrd | rola | rolb | rora | rorb | mul | emul | emuls | andcc | orcc | clc | cli | clv | sec | sei | sev | tab
    | tba | tap | tpa | tsx | tsy | txs | tys | xgdx | xgdy | nop | pula | pulb | pulc | puld | pulx | puly =>
    refine inherent_keeps (fun _ => ?_) _ s
    exact .of_eq rfl rfl rfl
  case psha | pshb | pshc => exact inherent_keeps (fun u => push8_keeps u _) _ s
  case pshd | pshx | pshy => exact inherent_keeps (fun u => push16_keeps u _) _ s
  case tfr src dst => exact inherent_keeps (transferOp_keeps src dst) _ s
  case sex src dst => exact inherent_keeps (transferOp_keeps src.reg dst.reg) _ s
  case exg src dst => exact inherent_keeps (exchangeOp_keeps src dst) _ s
  case leas ix | leax ix | leay ix | maxa ix | mina ix | emaxd ix | emind ix =>
    refine withIdx_keeps (fun _ _ => ?_) _ ix s
    exact .of_eq rfl rfl rfl
  case tbl ix => exact execTbl_keeps ix s
  case etbl ix => exact execEtbl_keeps ix s
  case maxm ix | minm ix =>
    refine withIdx_keeps (fun ea u => .trans ?_ (nzvc_keeps _ _)) _ ix s
    exact (touch_keeps u ea).trans (writeByte_keeps _ ea _)
  case emaxm ix | eminm ix =>
    refine withIdx_keeps (fun ea u => .trans ?_ (nzvc_keeps _ _)) _ ix s
    exact (touchWord_keeps u ea).trans (writeWord_keeps _ ea _)
  case inc ad | dec ad | com ad | neg ad | asl ad | asr ad | lsl ad | lsr ad | rol ad | ror ad =>
    refine withExtIdx_keeps (fun ea u => modify8_keeps (fun _ _ => ?_) ea u) ad s
    exact .of_eq rfl rfl rfl
  case clr ad =>
    exact withExtIdx_keeps (fun ea u => (writeByte_keeps u ea 0).trans (setNzvc_keeps _ _ _ _ _)) ad s
  case tst ad =>
    refine withExtIdx_keeps (fun _ _ => ?_) ad s
    exact .of_eq rfl rfl rfl
  case bset ad mm | bclr ad mm =>
    refine withMemOp_keeps (fun ea u => modify8_keeps (fun _ _ => ?_) ea u) _ ad s
    exact .of_eq rfl rfl rfl
  case staa ad | stab ad =>
    exact withMemOp_keeps (fun ea u => (writeByte_keeps u ea _).trans (nzv0_keeps _ _)) _ ad s
  case std ad | sts ad | stx ad | sty ad =>
    exact withMemOp_keeps (fun ea u => (writeWord_keeps u ea _).trans (nzv0_keeps _ _)) _ ad s
  case bra | brn | bhi | bls | bcc | bhs | bcs | blo | bne | beq | bvc | bvs | bpl | bmi | bge | blt | bgt | ble
    | lbra | lbrn | lbhi | lbls | lbcc | lbhs | lbcs | lblo | lbne | lbeq | lbvc | lbvs | lbpl | lbmi | lbge | lblt
    | lbgt | lble =>
    exact .next (.of_eq rfl rfl rfl)
  case brset ad mm rr | brclr ad mm rr => exact bitBranch_keeps _ ad rr s
  case dbeq r off | dbne r off | ibeq r off | ibne r off | tbeq r off | tbne r off =>
    exact loopPrimitive_keeps _ _ r off s
  case jmp ad => exact execJmp_keeps ad s
  case bsr => exact .next ((push16_keeps s _).update rfl rfl rfl)
  case jsr ad => exact execJsr_keeps ad s
  case rts => exact .next ((pulled16_keeps s).update rfl rfl rfl)
  case rtc => exact .next (((pulled8_keeps s).trans (pulled16_keeps _)).update rfl rfl rfl)
  case call t => exact execCall_keeps t s
  case movb src dst => exact execMovb_keeps src dst s
  case movw src dst => exact execMovw_keeps src dst s
  case mem => exact execMem_keeps s
  case emacs hhll => exact execEmacs_keeps hhll s
  case ediv => exact execEdiv_keeps s
  case edivs => exact execEdivs_keeps s
  case fdiv => exact execFdiv_keeps s
  case idiv => exact execIdiv_keeps s
  case idivs => exact execIdivs_keeps s
  case rev => exact execRev_keeps s
  case revw => exact execRevw_keeps s
  case wav => exact execWav_keeps s
  case wavr => exact execWavr_keeps s
  case swi | trap => exact .next (exceptionEntry_keeps s _ _ false)
  case rti => exact .next (returnFromInterrupt_keeps s)
  case wai => exact .next ((stackFrame_keeps s _).update rfl rfl rfl)
  case stop => exact execStop_keeps s
  case bgnd => exact execBgnd_keeps s

/-- The prebyte does what `exec` does with a page-2 instruction (30_encoding.md R91). -/
theorem page2Meaning_eq_exec {i : Instr} {s : State} {r : Result} (h : page2Meaning i s = some r) :
    i ≠ .page2Prebyte ∧ exec i s = r := by
  refine ⟨fun hi => ?_, ?_⟩
  · subst hi; cases h
  · cases i <;> cases h <;> rfl

theorem execPage2Prebyte_keeps (s : State) : AnswerKeeps s (execPage2Prebyte s) := by
  unfold execPage2Prebyte
  split
  · exact .refused s _
  · next i _ _ =>
    cases h : page2Meaning i s with
    | none => exact .refused s _
    | some r =>
      obtain ⟨hi, rfl⟩ := page2Meaning_eq_exec h
      exact exec_keeps_of_ne hi s

theorem exec_keeps (i : Instr) (s : State) : AnswerKeeps s (exec i s) := by
  by_cases hi : i = .page2Prebyte
  · subst hi; exact execPage2Prebyte_keeps s
  · exact exec_keeps_of_ne hi s

theorem executeNext_keeps (s : State) : AnswerKeeps s (executeNext s) := by
  intro t ht
  unfold executeNext at ht
  split at ht
  · cases ht
  · split at ht
    · next u hu => cases ht; exact (exec_keeps _ s u hu).update rfl rfl rfl
    · cases ht
    · cases ht

/-! ### The boundary -/

theorem takeReset_keeps (s : State) (v : Word) : Keeps s (s.takeReset v) := .of_eq rfl rfl rfl

theorem wake_keeps (s : State) (q : Request) : Keeps s (s.wake q) := .of_eq rfl rfl rfl

theorem bdmWrite_keeps (s : State) (w : BdmWrite) : Keeps s (s.bdmWrite w) := by
  cases w
  case memory k v => exact ⟨rfl, Memory.wf_write k v, fun ⟨hm, hl⟩ => ⟨Memory.wf_write k v hm, hl⟩⟩
  all_goals exact .of_eq rfl rfl rfl

theorem bdmWrites_keeps (l : List BdmWrite) (s : State) : Keeps s (l.foldl State.bdmWrite s) := by
  induction l generalizing s with
  | nil => exact .of_eq rfl rfl rfl
  | cons w l ih => exact (bdmWrite_keeps s w).trans (ih _)

theorem bdmStep_keeps (s : State) (q : Inputs) : Keeps s (bdmStep s q) := by
  unfold bdmStep
  dsimp only
  split
  · exact (bdmWrites_keeps _ s).update rfl rfl rfl
  · exact bdmWrites_keeps _ s

theorem waitStep_keeps (s : State) (q : Inputs) : Keeps s (waitStep s q) := by
  unfold waitStep
  split
  · exact wake_keeps s _
  · exact .of_eq rfl rfl rfl

theorem stoppedStep_keeps (s : State) (q : Inputs) : Keeps s (stoppedStep s q) := by
  unfold stoppedStep
  repeat' split
  all_goals exact .of_eq rfl rfl rfl

theorem boundary_keeps {s t : State} {q : Inputs} (h : boundary s q = some t) : Keeps s t := by
  unfold boundary at h
  split at h
  · cases h; exact takeReset_keeps s _
  · split at h
    · split at h
      · cases h; exact .of_eq rfl rfl rfl
      · split at h
        · cases h; exact exceptionEntry_keeps s _ _ _
        · cases h
    · cases h; exact waitStep_keeps s q
    · cases h; exact stoppedStep_keeps s q
    · cases h; exact bdmStep_keeps s q

/-! ### One step -/

theorem elapse_keeps (s t : State) : Keeps t (s.elapse t) := by
  unfold State.elapse
  split <;> exact .of_eq rfl rfl rfl

/-- What is kept between the start and the end of a step is kept by the step. A late reset limits the writes at the start and
takes the limit away at the end (70_reset_and_hazards.md R551). -/
theorem Keeps.of_start {s t : State} (h : Keeps s.start t) : Keeps s (s.finish t) := by
  unfold State.start at h
  unfold State.finish
  split at h
  · have hpop : Keeps s s.popInput := .of_eq rfl rfl rfl
    exact (hpop.trans h).trans (elapse_keeps s t)
  · next r n _ =>
    have hwf : s.mem.wf = true → t.mem.wf = true := h.wf
    have hcut : Keeps s (t.abandon r) := ⟨h.dev, hwf, fun hs => ⟨hwf hs.1, rfl⟩⟩
    exact hcut.trans (elapse_keeps s _)

theorem step_keeps {s t : State} (h : step s = .next t) : Keeps s t := by
  unfold step at h
  split at h
  · next u hu => cases h; exact (boundary_keeps hu).of_start
  · split at h
    · next u hu => cases h; exact (executeNext_keeps s.start u hu).of_start
    · cases h
    · cases h

/-- Settles O11: what every step keeps, over the boundary and every instruction. -/
theorem stepKeepsMemoryCanonical : Obligations.StepKeepsMemoryCanonical :=
  ⟨fun _ _ hs h => (step_keeps h).inv hs, fun _ _ h => (step_keeps h).dev⟩

end Sys2Proof.Machine
end

section
/-! PROOFS. Which request is enabled (60_exceptions.md R505, R510; 92_eei_decisions.md D18). -/

namespace Sys2Proof.Machine

/-- The selected source has the vector of the source that has the highest priority. -/
theorem selectIrq_of_selects {s : State} {q : Inputs} {n : IrqSource} (h : s.dev.Selects (· ∈ q.irq) n) :
    ∃ k, selectIrq s.dev.promoted (s.irqRequests q) = some k ∧ k.vector = n.vector := by
  obtain ⟨hn, hreq, hpri⟩ := h
  have hmem : n ∈ s.irqRequests q := mem_irqRequests.2 ⟨hn, hreq⟩
  obtain ⟨hnil, _⟩ | ⟨k, hk, hsel, hkpri⟩ := selectIrq_cases s.dev.promoted (s.irqRequests q)
  · simp [hnil] at hmem
  · refine ⟨k, hsel, ?_⟩
    obtain ⟨hkdev, hkreq⟩ := mem_irqRequests.1 hk
    obtain ⟨hprom, hsame⟩ | hmax := hpri
    · obtain hkprom | hother := hkpri
      · exact hsame k hkdev (Option.some.inj (hkprom.symm.trans hprom))
      · exact absurd hprom (hother n hmem).1
    · obtain hkprom | hother := hkpri
      · exact absurd hkprom (hmax k hkdev hkreq).1
      · exact le_antisymm (hmax k hkdev hkreq).2 (hother n hmem).2

/-- Where XIRQ is not recognised, the request is the one selected among the device's sources. -/
theorem interruptPending_of_no_xirq {s : State} {q : Inputs} (hx : q.xirq = false ∨ s.ccr.x = true) :
    s.interruptPending q =
      if !s.ccr.i && !s.iDelay then
        (selectIrq s.dev.promoted (s.irqRequests q)).map fun n => ⟨n.address, false⟩
      else none := by
  unfold State.interruptPending
  rw [if_neg]
  rcases hx with hx | hx <;> simp [hx]

/-- Settles O55, by the cases of XIRQ recognised, no source enabled or requesting, and one selected. -/
theorem requestSelection : Obligations.RequestSelection := by
  intro s q
  refine ⟨fun hq hx => ?_, fun hx hno => ?_, fun hx hi hd n hn => ?_⟩
  · simp [State.interruptPending, hq, hx]
  · rw [interruptPending_of_no_xirq hx]
    obtain hi | hd | hreq := hno
    · simp [hi]
    · simp [hd]
    · have hnil : s.irqRequests q = [] :=
        List.eq_nil_iff_forall_not_mem.2 fun n hn => hreq n (mem_irqRequests.1 hn).1 (mem_irqRequests.1 hn).2
      simp [hnil, selectIrq, highestIrq]
  · obtain ⟨k, hsel, hvec⟩ := selectIrq_of_selects hn
    simp [interruptPending_of_no_xirq hx, hi, hd, hsel, IrqSource.address, hvec]

end Sys2Proof.Machine
end

section
/-! PROOFS. The instructions that stay in line (10_state.md R24, R27): each ends with the PC after its last byte, keeps the run
state and the samples of the environment still to come, and does not set X. -/

namespace Sys2Proof.Machine

/-! ### What an operation in line keeps -/

/-- What an instruction that neither transfers control nor stops keeps: the run state and the environment's future; X is kept
or cleared. -/
structure InLine (s t : State) : Prop where
  run : t.run = s.run
  inputs : t.inputs = s.inputs
  x : t.ccr.x = true → s.ccr.x = true

theorem InLine.trans {s t u : State} (h : InLine s t) (h' : InLine t u) : InLine s u :=
  ⟨h'.run.trans h.run, h'.inputs.trans h.inputs, h.x ∘ h'.x⟩

/-- An update that leaves the three alone. -/
theorem InLine.of_eq {s t : State} (hr : t.run = s.run) (hi : t.inputs = s.inputs) (hx : t.ccr.x = s.ccr.x) :
    InLine s t :=
  ⟨hr, hi, fun h => hx ▸ h⟩

/-- Such an update after something else. -/
theorem InLine.update {s t u : State} (h : InLine s t) (hr : u.run = t.run) (hi : u.inputs = t.inputs)
    (hx : u.ccr.x = t.ccr.x) : InLine s u := h.trans (.of_eq hr hi hx)

theorem touch_inLine (s : State) (a : Word) : InLine s (s.touch a) := .of_eq rfl rfl rfl

theorem touchWord_inLine (s : State) (a : Word) : InLine s (s.touchWord a) := .of_eq rfl rfl rfl

theorem writeByte_inLine (s : State) (a : Word) (v : Byte) : InLine s (s.writeByte a v) :=
  .of_eq (by simp) (by simp) (by simp)

theorem writeWord_inLine (s : State) (a v : Word) : InLine s (s.writeWord a v) :=
  .of_eq (by simp) (by simp) (by simp)

theorem writeLong_inLine (s : State) (a : Word) (v : BitVec 32) : InLine s (s.writeLong a v) :=
  .of_eq (by simp) (by simp) (by simp)

theorem push8_inLine (s : State) (v : Byte) : InLine s (s.push8 v) := .of_eq (by simp) (by simp) (by simp)

theorem push16_inLine (s : State) (v : Word) : InLine s (s.push16 v) := .of_eq (by simp) (by simp) (by simp)

theorem setNzvc_inLine (s : State) (n z v c : Bool) : InLine s (s.setNzvc n z v c) := .of_eq rfl rfl rfl

/-- `write_ccr` keeps or clears X (10_state.md R27). -/
theorem writeCcr_inLine (s : State) (v : Byte) : InLine s (s.writeCcr v) :=
  ⟨rfl, rfl, by simp +contextual [Ccr.write]⟩

theorem modify8_inLine {f : Byte → Byte} {flags : Byte → State → State} (hflags : ∀ m u, InLine u (flags m u))
    (ea : Word) (s : State) : InLine s (modify8 f flags ea s) :=
  ((touch_inLine s ea).trans (writeByte_inLine _ ea _)).trans (hflags _ _)

theorem xreg_write_inLine (r : XReg) (first : Bool) (v : Word) (s : State) : InLine s (r.write first v s) := by
  cases r
  case ccr => exact writeCcr_inLine s _
  case tmp => cases first <;> exact .of_eq rfl rfl rfl
  all_goals exact .of_eq rfl rfl rfl

theorem drewIf_inLine (s : State) (used : Bool) : InLine s (s.drewIf used) := by
  cases used <;> exact .of_eq rfl rfl rfl

theorem transferOp_inLine (src dst : XReg) (s : State) : InLine s (transferOp src dst s) :=
  ((xreg_write_inLine dst false _ s).trans (drewIf_inLine _ _)).update rfl rfl rfl

theorem exchangeOp_inLine (r1 r2 : XReg) (s : State) : InLine s (exchangeOp r1 r2 s) :=
  (((xreg_write_inLine r1 true _ s).trans (xreg_write_inLine r2 false _ _)).trans (drewIf_inLine _ _)).update rfl rfl rfl

/-! ### Forming an operand -/

theorem idx_side_inLine (i : Idx) (npc : Word) (s : State) : InLine s (i.side npc s) :=
  .of_eq (by simp) (by simp) (by simp)

theorem src8_side_inLine (o : Src8) (npc : Word) (s : State) : InLine s (o.side npc s) :=
  .of_eq (by simp) (by simp) (by simp)

theorem src16_side_inLine (o : Src16) (npc : Word) (s : State) : InLine s (o.side npc s) :=
  .of_eq (by simp) (by simp) (by simp)

theorem memOp_side_inLine (o : MemOp) (npc : Word) (s : State) : InLine s (o.side npc s) :=
  .of_eq (by simp) (by simp) (by simp)

theorem extIdx_side_inLine (o : ExtIdx) (npc : Word) (s : State) : InLine s (o.side npc s) :=
  .of_eq (by simp) (by simp) (by simp)

theorem movSrc8_side_inLine (o : MovSrc8) (npc : Word) (s : State) : InLine s (o.side npc s) :=
  .of_eq (by simp) (by simp) (by simp)

theorem movSrc16_side_inLine (o : MovSrc16) (npc : Word) (s : State) : InLine s (o.side npc s) :=
  .of_eq (by simp) (by simp) (by simp)

/-! ### The shapes of an instruction -/

/-- The meaning `r` completes in line, with the PC `n` bytes on (10_state.md R24). -/
def Advances (s : State) (n : Nat) (r : Result) : Prop := ∃ t, r = .next t ∧ t.pc = s.npc n ∧ InLine s t

/-- What completes by putting the PC at `npc` last. -/
theorem Advances.of_inLine {s t : State} (h : InLine s t) {m n : Nat} (hn : n = m) :
    Advances s n (.next { t with pc := s.npc m }) :=
  ⟨_, rfl, by rw [hn], h.update rfl rfl rfl⟩

theorem inherent_advances {f : State → State} (hf : ∀ u, InLine u (f u)) (n : Nat) (s : State) :
    Advances s n (inherent n f s) := .of_inLine (hf s) rfl

theorem withSrc8_advances {f : Byte → State → State} (hf : ∀ m u, InLine u (f m u)) (o : Src8) (s : State) {n : Nat}
    (hn : n = 1 + o.len) : Advances s n (withSrc8 o f s) :=
  .of_inLine ((src8_side_inLine o _ s).trans (hf _ _)) hn

theorem withSrc16_advances {f : Word → State → State} (hf : ∀ m u, InLine u (f m u)) (o : Src16) (s : State) {n : Nat}
    (hn : n = 1 + o.len) : Advances s n (withSrc16 o f s) :=
  .of_inLine ((src16_side_inLine o _ s).trans (hf _ _)) hn

theorem withMemOp_advances {f : Word → State → State} (hf : ∀ ea u, InLine u (f ea u)) (o : MemOp) (s : State) {k n : Nat}
    (hn : n = k + o.len) : Advances s n (withMemOp k o f s) :=
  .of_inLine ((memOp_side_inLine o _ s).trans (hf _ _)) hn

theorem withExtIdx_advances {f : Word → State → State} (hf : ∀ ea u, InLine u (f ea u)) (o : ExtIdx) (s : State) {n : Nat}
    (hn : n = 1 + o.len) : Advances s n (withExtIdx o f s) :=
  .of_inLine ((extIdx_side_inLine o _ s).trans (hf _ _)) hn

theorem withIdx_advances {f : Word → State → State} (hf : ∀ ea u, InLine u (f ea u)) (i : Idx) (s : State) {k n : Nat}
    (hn : n = k + i.len) : Advances s n (withIdx k i f s) :=
  .of_inLine ((idx_side_inLine i _ s).trans (hf _ _)) hn

/-! ### The length of an encoding with an indexed operand (30_encoding.md R92, R100) -/

theorem length_opcode_idx (op : Byte) (i : Idx) : (op :: i.bytes).length = 1 + i.len := by
  simp [Laws.idx_bytes_length, Nat.add_comm]

theorem length_opcode_idx_mask (op mm : Byte) (i : Idx) : (op :: i.bytes ++ [mm]).length = 2 + i.len := by
  simp [Laws.idx_bytes_length]; omega

theorem length_page2_idx (p op : Byte) (i : Idx) : ([p, op] ++ i.bytes).length = 2 + i.len := by
  simp [Laws.idx_bytes_length]; omega

theorem length_movb (src : MovSrc8) (dst : ExtIdx) : (encode (.movb src dst)).length = 2 + src.len + dst.len := by
  cases src <;> cases dst <;>
    simp [encode, wordBytes, Laws.idx_bytes_length, MovSrc8.len, ExtIdx.len] <;> omega

theorem length_movw (src : MovSrc16) (dst : ExtIdx) : (encode (.movw src dst)).length = 2 + src.len + dst.len := by
  cases src <;> cases dst <;>
    simp [encode, wordBytes, Laws.idx_bytes_length, MovSrc16.len, ExtIdx.len] <;> omega

/-! ### Single instructions -/

theorem execMem_advances (s : State) : Advances s 1 (execMem s) := by
  refine inherent_advances (fun u => ?_) 1 s
  have hread : InLine u ((u.touchWord u.x).touchWord (u.x + 2)) := .of_eq rfl rfl rfl
  exact (hread.trans (writeByte_inLine _ u.y _)).update rfl rfl rfl

theorem execEmacs_advances (hhll : Word) (s : State) : Advances s 4 (execEmacs hhll s) := by
  refine inherent_advances (fun u => ?_) 4 s
  have hread : InLine u (((u.touchWord u.x).touchWord u.y).touchLong hhll) :=
    .of_eq (by simp) (by simp) (by simp)
  exact (hread.trans (writeLong_inLine _ hhll _)).trans (setNzvc_inLine _ _ _ _ _)

theorem execEdiv_advances (s : State) : Advances s 1 (execEdiv s) := by
  refine inherent_advances (fun u => ?_) 1 s
  dsimp only
  repeat' split
  all_goals exact .of_eq rfl rfl rfl

theorem execEdivs_advances (s : State) : Advances s 2 (execEdivs s) := by
  refine inherent_advances (fun u => ?_) 2 s
  dsimp only
  repeat' split
  all_goals exact .of_eq rfl rfl rfl

theorem execFdiv_advances (s : State) : Advances s 2 (execFdiv s) := by
  refine inherent_advances (fun u => ?_) 2 s
  dsimp only
  split <;> exact .of_eq rfl rfl rfl

theorem execIdiv_advances (s : State) : Advances s 2 (execIdiv s) := by
  refine inherent_advances (fun u => ?_) 2 s
  dsimp only
  split <;> exact .of_eq rfl rfl rfl

theorem execIdivs_advances (s : State) : Advances s 2 (execIdivs s) := by
  refine inherent_advances (fun u => ?_) 2 s
  dsimp only
  repeat' split
  all_goals exact .of_eq rfl rfl rfl

theorem execMovb_advances (src : MovSrc8) (dst : ExtIdx) (s : State) :
    Advances s (encode (.movb src dst)).length (execMovb src dst s) :=
  .of_inLine (((movSrc8_side_inLine src _ s).trans (extIdx_side_inLine dst _ _)).trans (writeByte_inLine _ _ _))
    (length_movb src dst)

theorem execMovw_advances (src : MovSrc16) (dst : ExtIdx) (s : State) :
    Advances s (encode (.movw src dst)).length (execMovw src dst s) :=
  .of_inLine (((movSrc16_side_inLine src _ s).trans (extIdx_side_inLine dst _ _)).trans (writeWord_inLine _ _ _))
    (length_movw src dst)

/-! ### Every instruction that stays in line -/

theorem exec_advances {i : Instr} (hi : mayLeaveLine i = false) (s : State) :
    Advances s (encode i).length (exec i s) := by
  cases i <;> dsimp only [exec]
  case bgnd | dbeq | dbne | tbeq | tbne | ibeq | ibne | unassignedLoopPostbyte | jmp | bsr | rtc | rti | brset | brclr
    | jsr | page2Prebyte | bra | brn | bhi | bls | bcc | bcs | bne | beq | bvc | bvs | bpl | bmi | bge | blt | bgt | ble
    | bhs | blo | wavr | rts | wai | swi | call | lbra | lbrn | lbhi | lbls | lbcc | lbcs | lbne | lbeq | lbvc | lbvs
    | lbpl | lbmi | lbge | lblt | lbgt | lble | lbhs | lblo | rev | revw | wav | stop | trap =>
    cases hi
  case adda src | addb src | adca src | adcb src | suba src | subb src | sbca src | sbcb src | cmpa src | cmpb src
    | ldaa src | ldab src | anda src | andb src | oraa src | orab src | eora src | eorb src | bita src | bitb src =>
    refine withSrc8_advances (fun _ _ => ?_) src s ?_
    · exact .of_eq rfl rfl rfl
    cases src with
    | idx i => exact length_opcode_idx _ i
    | _ => rfl
  case addd src | subd src | cpd src | cps src | cpx src | cpy src | ldd src | lds src | ldx src | ldy src =>
    refine withSrc16_advances (fun _ _ => ?_) src s ?_
    · exact .of_eq rfl rfl rfl
    cases src with
    | idx i => exact length_opcode_idx _ i
    | _ => rfl
  case aba | abx | aby | sba | daa | inca | incb | deca | decb | des | dex | dey | ins | inx | iny | cba | tsta | tstb
    | clra | clrb | coma | comb | nega | negb | asla | aslb | asld | asra | asrb | lsla | lslb | lsld | lsra | lsrb
    | lsrd | rola | rolb | rora | rorb | mul | emul | emuls | clc | cli | clv | sec | sei | sev | tab
    | tba | tpa | tsx | tsy | txs | tys | xgdx | xgdy | nop | pula | pulb | puld | pulx | puly =>
    refine inherent_advances (fun _ => ?_) _ s
    exact .of_eq rfl rfl rfl
  case andcc | orcc | tap =>
    refine inherent_advances (fun u => ?_) _ s
    exact (writeCcr_inLine u _).update rfl rfl rfl
  case pulc =>
    refine inherent_advances (fun u => .trans ?_ (writeCcr_inLine u.pulled8 _)) _ s
    exact .of_eq rfl rfl rfl
  case psha | pshb | pshc => exact inherent_advances (fun u => push8_inLine u _) _ s
  case pshd | pshx | pshy => exact inherent_advances (fun u => push16_inLine u _) _ s
  case tfr src dst => exact inherent_advances (transferOp_inLine src dst) _ s
  case sex src dst => exact inherent_advances (transferOp_inLine src.reg dst.reg) _ s
  case exg src dst => exact inherent_advances (exchangeOp_inLine src dst) _ s
  case leas ix | leax ix | leay ix =>
    refine withIdx_advances (fun _ _ => ?_) ix s (length_opcode_idx _ ix)
    exact .of_eq rfl rfl rfl
  case maxa ix | mina ix | emaxd ix | emind ix | tbl ix | etbl ix =>
    refine withIdx_advances (fun _ _ => ?_) ix s (length_page2_idx _ _ ix)
    exact .of_eq rfl rfl rfl
  case maxm ix | minm ix =>
    refine withIdx_advances (fun ea u => ?_) ix s (length_page2_idx _ _ ix)
    exact ((touch_inLine u ea).trans (writeByte_inLine _ ea _)).update rfl rfl rfl
  case emaxm ix | eminm ix =>
    refine withIdx_advances (fun ea u => ?_) ix s (length_page2_idx _ _ ix)
    exact ((touchWord_inLine u ea).trans (writeWord_inLine _ ea _)).update rfl rfl rfl
  case inc ad | dec ad | com ad | neg ad | asl ad | asr ad | lsl ad | lsr ad | rol ad | ror ad =>
    refine withExtIdx_advances (fun ea u => modify8_inLine (fun _ _ => ?_) ea u) ad s ?_
    · exact .of_eq rfl rfl rfl
    cases ad with
    | ext a => rfl
    | idx i => exact length_opcode_idx _ i
  case clr ad =>
    refine withExtIdx_advances (fun ea u => ?_) ad s ?_
    · exact (writeByte_inLine u ea _).update rfl rfl rfl
    cases ad with
    | ext a => rfl
    | idx i => exact length_opcode_idx _ i
  case tst ad =>
    refine withExtIdx_advances (fun _ _ => ?_) ad s ?_
    · exact .of_eq rfl rfl rfl
    cases ad with
    | ext a => rfl
    | idx i => exact length_opcode_idx _ i
  case bset ad mm | bclr ad mm =>
    refine withMemOp_advances (fun ea u => modify8_inLine (fun _ _ => ?_) ea u) ad s ?_
    · exact .of_eq rfl rfl rfl
    cases ad with
    | idx i => exact length_opcode_idx_mask _ mm i
    | _ => rfl
  case staa ad | stab ad =>
    refine withMemOp_advances (fun ea u => ?_) ad s ?_
    · exact (writeByte_inLine u ea _).update rfl rfl rfl
    cases ad with
    | idx i => exact length_opcode_idx _ i
    | _ => rfl
  case std ad | sts ad | stx ad | sty ad =>
    refine withMemOp_advances (fun ea u => ?_) ad s ?_
    · exact (writeWord_inLine u ea _).update rfl rfl rfl
    cases ad with
    | idx i => exact length_opcode_idx _ i
    | _ => rfl
  case movb src dst => exact execMovb_advances src dst s
  case movw src dst => exact execMovw_advances src dst s
  case mem => exact execMem_advances s
  case emacs hhll => exact execEmacs_advances hhll s
  case ediv => exact execEdiv_advances s
  case edivs => exact execEdivs_advances s
  case fdiv => exact execFdiv_advances s
  case idiv => exact execIdiv_advances s
  case idivs => exact execIdivs_advances s

/-- Settles O8: an instruction that stays in line advances the PC by the length of its encoding. -/
theorem pcAdvancesByTheEncodedLength : Obligations.PcAdvancesByTheEncodedLength := by
  intro i s hi
  obtain ⟨t, ht, hpc, hline⟩ := exec_advances hi s
  exact ⟨t, ht, hpc, hline.run⟩

end Sys2Proof.Machine
end

section
/-! PROOFS. X stays clear (10_state.md R27, 60_exceptions.md R509, R535): while the environment requests no reset and no XIRQ and
no BDM host writes, no instruction and no boundary sets X. -/

namespace Sys2Proof.Machine

/-! ### States with X clear and a mild environment -/

/-- X is clear, and the environment will request neither a reset nor an XIRQ and its BDM host will write nothing. -/
structure XClear (s : State) : Prop where
  x : s.ccr.x = false
  mild : ∀ q ∈ s.inputs, q.Mild

/-- A list of samples that has run out is quiet, so the next sample is mild too (log 4). -/
theorem XClear.input {s : State} (h : XClear s) : s.input.Mild := by
  unfold State.input
  cases hi : s.inputs with
  | nil => exact ⟨⟨rfl, rfl⟩, rfl, rfl⟩
  | cons q rest => exact h.mild q (hi ▸ List.mem_cons_self)

theorem XClear.popInput {s : State} (h : XClear s) : XClear s.popInput :=
  ⟨h.x, fun q hq => h.mild q (List.mem_of_mem_tail hq)⟩

theorem XClear.of_eq {s t : State} (h : XClear s) (hx : t.ccr.x = s.ccr.x) (hi : t.inputs = s.inputs) : XClear t :=
  ⟨hx.trans h.x, hi ▸ h.mild⟩

theorem XClear.of_inLine {s t : State} (h : XClear s) (ht : InLine s t) : XClear t :=
  ⟨Bool.eq_false_iff.2 fun hx => absurd (ht.x hx) (by simp [h.x]), ht.inputs ▸ h.mild⟩

/-- A mild sample enables no XIRQ (60_exceptions.md R505). -/
theorem isXirq_of_mild {s : State} {q : Inputs} {r : Request} (hq : q.Mild) (hr : s.interruptPending q = some r) :
    r.isXirq = false := by
  rw [interruptPending_of_no_xirq (.inl hq.2.1)] at hr
  split at hr
  · obtain ⟨n, -, rfl⟩ := Option.map_eq_some_iff.1 hr
    rfl
  · cases hr

/-! ### Operations that leave the line -/

/-- Entering a handler sets X for an XIRQ only (60_exceptions.md R509). -/
theorem exceptionEntry_xClear {s : State} (h : XClear s) (vector ret : Word) : XClear (s.exceptionEntry vector ret false) :=
  h.of_eq (by simp [State.exceptionEntry]) (by simp [State.exceptionEntry])

theorem wake_xClear {s : State} (h : XClear s) {r : Request} (hr : r.isXirq = false) : XClear (s.wake r) :=
  h.of_eq (by simp [State.wake, hr]) (by simp [State.wake])

theorem stackFrame_xClear {s : State} (h : XClear s) (ret : Word) : XClear (s.stackFrame ret) :=
  h.of_eq (by simp) (by simp)

/-- The frame's CCR byte cannot set X (10_state.md R27, 47_system.md R483), and the request RTI looks for is no XIRQ. -/
theorem returnFromInterrupt_xClear {s : State} (h : XClear s) : XClear s.returnFromInterrupt := by
  have hccr : XClear (s.writeCcr (s.readByte s.sp)) := h.of_inLine (writeCcr_inLine s _)
  unfold State.returnFromInterrupt
  dsimp only
  split
  · next q hq =>
    have hmild : s.input.Mild := h.input
    have hno : q.isXirq = false := isXirq_of_mild hmild hq
    exact hccr.of_eq (by simp [Ccr.mask, hno]) (by simp)
  · exact hccr.of_eq (by simp) (by simp)

theorem ruleElement_inLine (s : State) (fa : Word) (f : Byte) : InLine s (s.ruleElement fa f) := by
  unfold State.ruleElement State.raiseOutput State.lowerTruth
  split <;> split <;> exact .of_eq (by simp) (by simp) (by simp)

theorem tookByte_inLine (s : State) : InLine s s.tookByte := .of_eq (by simp) (by simp) (by simp)

theorem tookWord_inLine (s : State) : InLine s s.tookWord := .of_eq (by simp) (by simp) (by simp)

theorem byteAhead_inLine (s : State) : InLine s s.byteAhead := .of_eq rfl rfl rfl

theorem wordAhead_inLine (s : State) : InLine s s.wordAhead := .of_eq rfl rfl rfl

theorem freeHnzc_inLine (s : State) : InLine s s.freeHnzc := .of_eq rfl rfl rfl

theorem freeHnz_inLine (s : State) : InLine s s.freeHnz := .of_eq rfl rfl rfl

theorem applyWeight_inLine (s : State) : InLine s s.applyWeight := by
  unfold State.applyWeight
  split <;> exact .of_eq rfl rfl rfl

theorem loopCount_inLine (r : LoopReg) (delta : Word) (s : State) : InLine s (loopCount r delta s).1 := by
  cases r <;> exact .of_eq rfl rfl rfl

theorem pullSums_inLine (s : State) : InLine s s.pullSums := .of_eq (by simp) (by simp) (by simp)

theorem addPending_inLine (s : State) : InLine s s.addPending := .of_eq rfl rfl rfl

theorem finishWav_inLine (s : State) (npc : Word) : InLine s (s.finishWav npc) := .of_eq rfl rfl rfl

theorem call_inLine (s : State) (npc target : Word) (page : Byte) : InLine s (s.call npc target page) :=
  .of_eq (by simp [State.call]) (by simp [State.call]) (by simp [State.call])

/-- The interrupt exit of WAV, for a request that is no XIRQ (44_fuzzy_minmax_table.md R352). -/
theorem interruptWav_xClear {s : State} (h : XClear s) (here : Word) {r : Request} (hr : r.isXirq = false) :
    XClear (s.interruptWav here r) := by
  unfold State.interruptWav
  rw [hr]
  exact exceptionEntry_xClear (h.of_eq (by simp) (by simp)) _ _

/-- What follows a pass of WAV that nothing stops, `k` more being due: the end, or the next pass (44_fuzzy_minmax_table.md
R351). -/
def wavRest (here npc : Word) : Nat → State → State
  | 0, u => u.finishWav npc
  | k + 1, u => wavLoop here npc k u

/-- A pass of WAV with a mild sample: it is stopped by an interrupt, or the rest of WAV follows. -/
theorem wavLoop_mild (here npc : Word) (k : Nat) {s : State} (h : s.input.Mild) :
    let t := s.pairTaken.popInput
    let u := t.accumulate (s.readByte s.y) ((s.touch s.y).readByte s.x)
    (∃ r, r.isXirq = false ∧ wavLoop here npc k s = t.interruptWav here r) ∨
      wavLoop here npc k s = wavRest here npc k u := by
  intro t u
  have hin : s.pairTaken.input.Mild := h
  obtain ⟨⟨hreset, hlate⟩, -, -⟩ := hin
  cases hp : t.interruptPending s.pairTaken.input with
  | some r =>
    refine .inl ⟨r, isXirq_of_mild h hp, ?_⟩
    unfold wavLoop
    simp only [hreset, hlate]
    rw [show s.pairTaken.popInput.interruptPending s.pairTaken.input = some r from hp]
    rfl
  | none =>
    refine .inr ?_
    conv_lhs => unfold wavLoop
    simp only [hreset, hlate]
    rw [show s.pairTaken.popInput.interruptPending s.pairTaken.input = none from hp]
    cases k <;> rfl

theorem wavLoop_xClear (here npc : Word) (k : Nat) {s : State} (h : XClear s) : XClear (wavLoop here npc k s) := by
  induction k generalizing s with
  | zero =>
    have ht : XClear s.pairTaken.popInput := h.popInput.of_eq rfl rfl
    obtain ⟨r, hr, e⟩ | e := wavLoop_mild here npc 0 h.input <;> rw [e]
    · exact interruptWav_xClear ht here hr
    · exact ht.of_eq rfl rfl
  | succ k ih =>
    have ht : XClear s.pairTaken.popInput := h.popInput.of_eq rfl rfl
    obtain ⟨r, hr, e⟩ | e := wavLoop_mild here npc (k + 1) h.input <;> rw [e]
    · exact interruptWav_xClear ht here hr
    · exact ih (ht.of_eq rfl rfl)

/-! ### Every instruction -/

/-- Whatever state the meaning `r` answers, X is clear in it and its environment mild. -/
def AnswerXClear (r : Result) : Prop := ∀ t, r = .next t → XClear t

theorem AnswerXClear.next {t : State} (h : XClear t) : AnswerXClear (.next t) := by
  rintro _ ⟨⟩; exact h

theorem AnswerXClear.refused (r : Refusal) : AnswerXClear (.refused r) := by
  rintro _ ⟨⟩

theorem execRev_xClear {s : State} (h : XClear s) : AnswerXClear (execRev s) := by
  have ht : InLine s s.tookByte := tookByte_inLine s
  unfold execRev
  dsimp only
  split
  · exact .next ((h.of_inLine ht).of_eq rfl rfl)
  · split
    · exact .next ((h.of_inLine ht).of_eq rfl rfl)
    · have hread (fa : Word) := (ht.trans (touch_inLine _ fa)).trans (byteAhead_inLine _)
      exact .next (h.of_inLine (((hread _).trans (ruleElement_inLine _ _ _)).trans (freeHnzc_inLine _)))

theorem execRevw_xClear {s : State} (h : XClear s) : AnswerXClear (execRevw s) := by
  have ht : InLine s s.tookWord := tookWord_inLine s
  unfold execRevw
  dsimp only
  split
  · exact .next ((h.of_inLine ht).of_eq rfl rfl)
  · split
    · split
      · exact .next ((h.of_inLine ht).of_eq rfl rfl)
      · refine .next (.of_inLine ?_ (freeHnz_inLine _))
        have hread := (ht.trans (applyWeight_inLine _)).trans (wordAhead_inLine _)
        exact ⟨(h.of_inLine ht).x, (h.of_inLine hread).mild⟩
    · have hread (fa : Word) := (ht.trans (touch_inLine _ fa)).trans (wordAhead_inLine _)
      exact .next (h.of_inLine (((hread _).trans (ruleElement_inLine _ _ _)).trans (freeHnz_inLine _)))

theorem execWavr_xClear {s : State} (h : XClear s) : AnswerXClear (execWavr s) := by
  have hu : XClear s.pullSums.addPending := h.of_inLine ((pullSums_inLine s).trans (addPending_inLine _))
  refine .next ?_
  split
  · exact hu.of_inLine (finishWav_inLine _ _)
  · exact wavLoop_xClear _ _ _ hu

theorem execCall_xClear (t : CallTarget) {s : State} (h : XClear s) : AnswerXClear (execCall t s) := by
  cases t with
  | ext a pg => exact .next (h.of_inLine (call_inLine s _ _ _))
  | idx i pg => exact .next ((h.of_inLine (idx_side_inLine i _ s)).of_inLine (call_inLine _ _ _ _))
  | ind i => exact .next (h.of_inLine (((idx_side_inLine i _ s).trans (touch_inLine _ _)).trans (call_inLine _ _ _ _)))

theorem execStop_xClear {s : State} (h : XClear s) : AnswerXClear (execStop s) := by
  unfold execStop
  split
  · exact .next (h.of_eq rfl rfl)
  · exact .next ((stackFrame_xClear h _).of_eq rfl rfl)

theorem execBgnd_xClear {s : State} (h : XClear s) : AnswerXClear (execBgnd s) := by
  unfold execBgnd
  dsimp only
  split <;> exact .next (h.of_eq rfl rfl)

/-- Every instruction but the prebyte, whose meaning is another instruction's. -/
theorem exec_xClear_of_ne {i : Instr} (hi : i ≠ .page2Prebyte) {s : State} (h : XClear s) : AnswerXClear (exec i s) := by
  cases hline : mayLeaveLine i with
  | false =>
    obtain ⟨t, ht, -, hin⟩ := exec_advances hline s
    rw [ht]
    exact .next (h.of_inLine hin)
  | true =>
    cases i <;> dsimp only [exec]
    case page2Prebyte => exact absurd rfl hi
    case unassignedLoopPostbyte => exact .refused _
    case bra | brn | bhi | bls | bcc | bhs | bcs | blo | bne | beq | bvc | bvs | bpl | bmi | bge | blt | bgt | ble
      | lbra | lbrn | lbhi | lbls | lbcc | lbhs | lbcs | lblo | lbne | lbeq | lbvc | lbvs | lbpl | lbmi | lbge | lblt
      | lbgt | lble =>
      exact .next (h.of_eq rfl rfl)
    case brset ad mm rr | brclr ad mm rr => exact .next ((h.of_inLine (memOp_side_inLine ad _ s)).of_eq rfl rfl)
    case dbeq r off | dbne r off | ibeq r off | ibne r off | tbeq r off | tbne r off =>
      exact .next ((h.of_inLine (loopCount_inLine r _ s)).of_eq rfl rfl)
    case jmp ad => exact .next ((h.of_inLine (extIdx_side_inLine ad _ s)).of_eq rfl rfl)
    case bsr => exact .next ((h.of_inLine (push16_inLine s _)).of_eq rfl rfl)
    case jsr ad =>
      exact .next ((h.of_inLine ((memOp_side_inLine ad _ s).trans (push16_inLine _ _))).of_eq rfl rfl)
    case rts | rtc => exact .next (h.of_eq rfl rfl)
    case call t => exact execCall_xClear t h
    case rev => exact execRev_xClear h
    case revw => exact execRevw_xClear h
    case wav => exact .next (wavLoop_xClear _ _ _ (h.of_eq rfl rfl))
    case wavr => exact execWavr_xClear h
    case swi | trap => exact .next (exceptionEntry_xClear h _ _)
    case rti => exact .next (returnFromInterrupt_xClear h)
    case wai => exact .next ((stackFrame_xClear h _).of_eq rfl rfl)
    case stop => exact execStop_xClear h
    case bgnd => exact execBgnd_xClear h
    all_goals cases hline

theorem execPage2Prebyte_xClear {s : State} (h : XClear s) : AnswerXClear (execPage2Prebyte s) := by
  unfold execPage2Prebyte
  split
  · exact .refused _
  · next i _ _ =>
    cases hm : page2Meaning i s with
    | none => exact .refused _
    | some r =>
      obtain ⟨hi, rfl⟩ := page2Meaning_eq_exec hm
      exact exec_xClear_of_ne hi h

theorem exec_xClear (i : Instr) {s : State} (h : XClear s) : AnswerXClear (exec i s) := by
  by_cases hi : i = .page2Prebyte
  · subst hi; exact execPage2Prebyte_xClear h
  · exact exec_xClear_of_ne hi h

theorem executeNext_xClear {s : State} (h : XClear s) : AnswerXClear (executeNext s) := by
  intro t ht
  unfold executeNext at ht
  split at ht
  · cases ht
  · split at ht
    · next u hu => cases ht; exact (exec_xClear _ h u hu).of_eq rfl rfl
    · cases ht
    · cases ht

/-! ### The boundary and one step -/

theorem waitStep_xClear {s : State} {q : Inputs} (h : XClear s) (hq : q.Mild) : XClear (waitStep s q) := by
  unfold waitStep
  split
  · next r hr => exact wake_xClear h (isXirq_of_mild hq hr)
  · exact h

theorem stoppedStep_xClear {s : State} {q : Inputs} (h : XClear s) (hq : q.Mild) : XClear (stoppedStep s q) := by
  obtain ⟨-, hxirq, -⟩ := hq
  unfold stoppedStep
  rw [if_neg (by simp [hxirq])]
  split
  · exact h
  · split
    · exact wake_xClear h rfl
    · exact h

/-- With no write of its host, active background debug mode leaves the CCR alone (60_exceptions.md R535). -/
theorem bdmStep_xClear {s : State} {q : Inputs} (h : XClear s) (hq : q.Mild) : XClear (bdmStep s q) := by
  obtain ⟨-, -, hwrites⟩ := hq
  unfold bdmStep
  rw [hwrites]
  dsimp only [List.foldl_nil]
  split
  · exact h.of_eq rfl rfl
  · exact h

theorem boundary_xClear {s t : State} {q : Inputs} (h : XClear s) (hq : q.Mild) (hb : boundary s q = some t) :
    XClear t := by
  unfold boundary at hb
  rw [hq.1.1] at hb
  dsimp only at hb
  split at hb
  · split at hb
    · cases hb; exact h.of_eq rfl rfl
    · split at hb
      · next r hr =>
        cases hb
        rw [isXirq_of_mild hq hr]
        exact exceptionEntry_xClear h _ _
      · cases hb
  · cases hb; exact waitStep_xClear h hq
  · cases hb; exact stoppedStep_xClear h hq
  · cases hb; exact bdmStep_xClear h hq

theorem late_of_noReset {q : Inputs} (h : q.NoReset) : q.late = none := by
  simp [Inputs.late, h.1, h.2]

theorem start_of_noReset {s : State} (h : s.input.NoReset) : s.start = s.popInput := by
  simp only [State.start, late_of_noReset h]

theorem elapse_ccr (s t : State) : (s.elapse t).ccr = t.ccr := by rw [elapse_eq]

/-- A step with a mild environment keeps X clear. -/
theorem step_keeps_x_clear {s t : State} (h : XClear s) (hstep : step s = .next t) : t.ccr.x = false := by
  have hstart : XClear s.start := start_of_noReset h.input.1 ▸ h.popInput
  have hfinish (u : State) (hu : XClear u) : (s.finish u).ccr.x = false := by
    rw [finish_quiet (late_of_noReset h.input.1), elapse_ccr]
    exact hu.x
  unfold step at hstep
  split at hstep
  · next u hu => cases hstep; exact hfinish u (boundary_xClear hstart h.input hu)
  · split at hstep
    · next u hu => cases hstep; exact hfinish u (executeNext_xClear hstart u hu)
    · cases hstep
    · cases hstep

/-- Settles O13: the invariant "X clear, environment mild" over the boundary and every instruction. -/
theorem onlyResetOrXirqSetsX : Obligations.OnlyResetOrXirqSetsX :=
  fun _ _ hmild hx hstep => step_keeps_x_clear ⟨hx, hmild⟩ hstep

end Sys2Proof.Machine
end

section
/-! PROOFS. The reset state (10_state.md R40), the condition-code instructions (42_logic_bit_shift.md R271 to R278), the pushes
and pulls (46_jump_call_stack.md R451 to R462). -/

namespace Sys2Proof.Machine

/-! ### The reset state -/

/-- Settles O9. -/
theorem resetStateAsStated : Obligations.ResetStateAsStated := ⟨rfl, rfl, rfl, rfl, rfl, rfl⟩

theorem reset_quiet : State.reset.Quiet := ⟨rfl, ⟨rfl, rfl⟩, rfl, rfl⟩

/-- Settles O12. -/
theorem resetIsCanonical : Obligations.ResetIsCanonical := ⟨reset_inv, reset_quiet⟩

/-! ### Condition-code instructions -/

theorem write_toByte (c : Ccr) : c.write c.toByte = c := by
  rw [Ccr.write_eq, ccr_toByte_eq, Ccr.fromData_nat]

/-- What ORCC makes of the CCR keeps X: its own bit is set in the data where it is set in the CCR (10_state.md R27). -/
theorem write_or_x (c : Ccr) (ii : Byte) : (c.write (c.toByte ||| ii)).x = c.x := by
  have hx : (c.x && c.toByte.getLsbD 6) = c.x := congrArg Ccr.x (write_toByte c)
  simp only [Ccr.write, BitVec.getLsbD_or, Bool.and_or_distrib_left, hx]
  cases c.x <;> simp

/-- Settles O34: each instruction is `write_ccr` of the masked CCR, or one bit of it. -/
theorem conditionCodeInstructions : Obligations.ConditionCodeInstructions := by
  intro s ii f g
  have hf : s.ccr.write (s.ccr.toByte &&& ii) = f := by rw [Ccr.write_eq, ccr_toByte_eq]
  have hg : s.ccr.write (s.ccr.toByte ||| ii) = g := by rw [Ccr.write_eq, ccr_toByte_eq]
  have handcc : exec (.andcc ii) s = .next { s with ccr := f, iDelay := s.ccr.i && !f.i, pc := s.npc 2 } := by
    rw [← hf]; rfl
  have horcc : exec (.orcc ii) s = .next { s with ccr := g, pc := s.npc 2 } := by rw [← hg]; rfl
  refine ⟨.of handcc rfl rfl rfl, .of horcc rfl rfl rfl, hg ▸ write_or_x s.ccr ii, .of ?clc rfl rfl rfl,
    .of ?cli rfl rfl rfl, .of ?clv rfl rfl rfl, .of rfl rfl rfl rfl, .of rfl rfl rfl rfl, .of rfl rfl rfl rfl,
    rfl, rfl, rfl, rfl, rfl, rfl, rfl, rfl⟩
  case clc => simp [exec, execClc, inherent, State.delayIfCleared]
  case clv => simp [exec, execClv, inherent, State.delayIfCleared]
  case cli => simp [exec, execCli, inherent, State.delayIfCleared]

/-! ### Pushes and pulls -/

/-- A push of one byte, then the PC moved on (46_jump_call_stack.md R451). -/
theorem inherent_push8_stores (s : State) (v : Byte) :
    SameButMemory { s with sp := s.sp - 1, pc := s.npc 1 } { s.push8 v with pc := s.npc 1 } ∧
      BytesStored { s with sp := s.sp - 1, pc := s.npc 1 } { s.push8 v with pc := s.npc 1 } (s.sp - 1) [v] :=
  ⟨by simp, (State.push8_stored s v).congr rfl rfl rfl rfl rfl rfl rfl rfl rfl rfl⟩

/-- A push of one word, high byte lower, then the PC moved on (46_jump_call_stack.md R454). -/
theorem inherent_push16_stores (s : State) (v : Word) :
    SameButMemory { s with sp := s.sp - 2, pc := s.npc 1 } { s.push16 v with pc := s.npc 1 } ∧
      BytesStored { s with sp := s.sp - 2, pc := s.npc 1 } { s.push16 v with pc := s.npc 1 } (s.sp - 2)
        [hiByte v, loByte v] :=
  ⟨by simp, (State.push16_stored s v).congr rfl rfl rfl rfl rfl rfl rfl rfl rfl rfl⟩

theorem pushes_store (s : State) :
    let one := { s with sp := s.sp - 1, pc := s.npc 1 }; let two := { s with sp := s.sp - 2, pc := s.npc 1 }
    StoresInto .psha s one (s.sp - 1) [s.a] ∧ StoresInto .pshb s one (s.sp - 1) [s.b] ∧
    StoresInto .pshc s one (s.sp - 1) [BitVec.ofNat 8 s.ccr.nat] ∧ StoresInto .pshd s two (s.sp - 2) [s.a, s.b] ∧
    StoresInto .pshx s two (s.sp - 2) (wordBE s.x) ∧ StoresInto .pshy s two (s.sp - 2) (wordBE s.y) := by
  intro one two
  refine ⟨⟨_, rfl, inherent_push8_stores s s.a⟩, ⟨_, rfl, inherent_push8_stores s s.b⟩,
    ⟨_, rfl, ?_⟩, ⟨_, rfl, ?_⟩, ⟨_, rfl, ?_⟩, ⟨_, rfl, ?_⟩⟩
  · rw [← ccr_toByte_eq]; exact inherent_push8_stores s s.ccr.toByte
  · have h := inherent_push16_stores s s.d
    rwa [State.d, hiByte_word, loByte_word] at h
  · rw [wordBE_eq]; exact inherent_push16_stores s s.x
  · rw [wordBE_eq]; exact inherent_push16_stores s s.y

theorem pulls_read (s : State) :
    let p := s.npc 1; let one := s.touch s.sp; let two := s.touchWord s.sp
    CompletesInto .pula s { one with a := s.readByte s.sp, sp := s.sp + 1, pc := p } ∧
    CompletesInto .pulb s { one with b := s.readByte s.sp, sp := s.sp + 1, pc := p } ∧
    CompletesInto .pulc s { one with ccr := s.ccr.fromData (s.readByte s.sp), sp := s.sp + 1, pc := p } ∧
    CompletesInto .puld s { two with a := s.readByte s.sp, b := one.readByte (s.sp + 1), sp := s.sp + 2, pc := p } ∧
    CompletesInto .pulx s { two with x := s.readWord s.sp, sp := s.sp + 2, pc := p } ∧
    CompletesInto .puly s { two with y := s.readWord s.sp, sp := s.sp + 2, pc := p } := by
  intro p one two
  refine ⟨.of rfl rfl rfl rfl, .of rfl rfl rfl rfl, .of ?_ rfl rfl rfl, .of ?_ rfl rfl rfl, .of rfl rfl rfl rfl,
    .of rfl rfl rfl rfl⟩
  · rw [← Ccr.write_eq]; rfl
  · have ha : hiByte s.top16 = s.readByte s.sp := hiByte_word _ _
    have hb : loByte s.top16 = one.readByte (s.sp + 1) := loByte_word _ _
    rw [← ha, ← hb]; rfl

/-- Settles O52, the pushes by the bytes they store and the pulls by what they read. -/
theorem pushesAndPulls : Obligations.PushesAndPulls := by
  refine ⟨fun s => ?_, fun s => ?_⟩
  · obtain ⟨ha, hb, hc, hd, hx, hy⟩ := pushes_store s
    exact ⟨ha, hb, hc, hd, hx, hy, rfl, rfl, rfl, rfl, rfl, rfl⟩
  · obtain ⟨ha, hb, hc, hd, hx, hy⟩ := pulls_read s
    exact ⟨ha, hb, hc, hd, hx, hy, rfl, rfl, rfl, rfl, rfl, rfl⟩

end Sys2Proof.Machine
end

section
/-! PROOFS. What a step does at its boundary (60_exceptions.md R503, R535; 70_reset_and_hazards.md R551): the decoded instruction
runs, active background debug mode, and the resets. -/

namespace Sys2Proof.Machine

/-! ### A step with no reset -/

/-- A boundary with no reset that does something by itself: that, seen by the devices. -/
theorem step_of_boundary {s t : State} (hq : s.input.NoReset) (hb : boundary s.popInput s.input = some t) :
    step s = .next (s.elapse t) := by
  unfold step
  rw [start_of_noReset hq, hb]
  exact congrArg _ (finish_quiet (late_of_noReset hq))

/-- The boundary of a running machine, no reset requested at it and no tag obeyed, is decided by the pending request
(60_exceptions.md R503). -/
theorem boundary_running {s : State} {q : Inputs} (hrun : s.run = .running) (hq : q.resetVector = none)
    (htag : (q.tag && s.dev.bdmEnabled) = false) :
    boundary s q = (s.interruptPending q).map fun r => s.exceptionEntry r.vector s.pc r.isXirq := by
  simp only [boundary, hq, hrun, htag]
  cases s.interruptPending q <;> rfl

theorem boundary_quiet {s : State} (h : s.Quiet) : boundary s.popInput s.input = none := by
  obtain ⟨hrun, hreset, htag, hpend⟩ := h
  have hb := boundary_running (s := s.popInput) hrun hreset.1 htag
  have hpend' : s.popInput.interruptPending s.input = none := hpend
  rw [hb, hpend', Option.map_none]

/-- At a quiet boundary the step is what the instruction at the PC does. -/
theorem step_of_quiet {s : State} (h : s.Quiet) : step s = match executeNext s.popInput with
    | .next t => .next (s.elapse t)
    | .fault r => .fault r
    | .refused r => .refused r := by
  unfold step
  rw [start_of_noReset h.2.1, boundary_quiet h]
  dsimp only
  cases executeNext s.popInput <;> simp only [finish_quiet (late_of_noReset h.2.1)]

theorem step_next_of_quiet {s t : State} {i : Instr} {rest : List Byte} (h : s.Quiet)
    (hd : decode (fetchBytes s) = .ok (i, rest)) (ht : exec i s.popInput = .next t) :
    step s = .next (s.elapse (endInstruction i s.popInput t)) := by
  have hd' : decode (fetchBytes s.popInput) = .ok (i, rest) := hd
  rw [step_of_quiet h, executeNext, hd']
  dsimp only
  rw [ht]

theorem step_refused_of_quiet {s : State} {i : Instr} {rest : List Byte} {r : Refusal} (h : s.Quiet)
    (hd : decode (fetchBytes s) = .ok (i, rest)) (hr : exec i s.popInput = .refused r) : step s = .refused r := by
  have hd' : decode (fetchBytes s.popInput) = .ok (i, rest) := hd
  rw [step_of_quiet h, executeNext, hd']
  dsimp only
  rw [hr]

/-- What a step that ran an instruction answers, from what the instruction answered. -/
theorem exec_next_of_step {s t : State} {i : Instr} {rest : List Byte} (h : s.Quiet)
    (hd : decode (fetchBytes s) = .ok (i, rest)) (ht : step s = .next t) :
    ∃ u, exec i s.popInput = .next u ∧ t = s.elapse (endInstruction i s.popInput u) := by
  cases he : exec i s.popInput with
  | next u => exact ⟨u, rfl, Host.Outcome.next.inj (ht.symm.trans (step_next_of_quiet h hd he))⟩
  | fault r => cases r
  | refused r => cases ht.symm.trans (step_refused_of_quiet h hd he)

/-! ### The I-clear delay (10_state.md R36, 60_exceptions.md R504) -/

/-- `i_delay` masks every request but an XIRQ (60_exceptions.md R505). -/
theorem interruptPending_of_delay {s : State} {q : Inputs} (hd : s.iDelay = true)
    (hx : q.xirq = false ∨ s.ccr.x = true) : s.interruptPending q = none := by
  simp [interruptPending_of_no_xirq hx, hd]

theorem elapse_iDelay (s t : State) : (s.elapse t).iDelay = t.iDelay := by rw [elapse_eq]

/-- ANDCC and TAP leave in `i_delay` whether they took I from 1 to 0 (92_eei_decisions.md D4). -/
theorem exec_iDelay_of_clearing {i : Instr} (hi : (∃ ii, i = .andcc ii) ∨ i = .tfr .a .ccr) {s u : State}
    (hu : exec i s = .next u) : writesDelay i = true ∧ u.iDelay = (s.ccr.i && !u.ccr.i) := by
  obtain ⟨ii, rfl⟩ | rfl := hi <;> cases hu <;> exact ⟨rfl, rfl⟩

/-- Settles O56, from what `endInstruction` leaves in `i_delay`. -/
theorem clearingIDelaysInterrupts : Obligations.ClearingIDelaysInterrupts := by
  intro s t i rest hquiet hdecode hstep
  obtain ⟨u, hu, rfl⟩ := exec_next_of_step hquiet hdecode hstep
  refine ⟨fun hi hset hclear q hx => interruptPending_of_delay ?_ hx, fun hw hrev hrevw => ?_⟩
  · obtain ⟨hw, hdelay⟩ := exec_iDelay_of_clearing hi hu
    have hclear' : u.ccr.i = false := by rwa [elapse_ccr] at hclear
    rw [elapse_iDelay]
    simp [endInstruction, hw, hdelay, hset, hclear']
  · have hmid : midRuleList i s.popInput u = false := by
      cases i
      case rev => exact absurd rfl hrev
      case revw => exact absurd rfl hrevw
      all_goals rfl
    rw [elapse_iDelay]
    simp [endInstruction, hw, hmid]

/-! ### Background mode and NOP -/

theorem execBgnd_disabled {s : State} (h : s.dev.bdmEnabled = false) :
    exec .bgnd s = .next { s.touch s.pc with tmp2 := s.pc + 1, tmp2Known := true, pc := s.pc + 1 } := by
  simp [exec, execBgnd, h, State.npc]

theorem execBgnd_enabled {s : State} (h : s.dev.bdmEnabled = true) :
    exec .bgnd s = .next { s.touch s.pc with tmp2 := s.pc + 1, tmp2Known := true, run := .bdmActive } := by
  simp [exec, execBgnd, h, State.npc]

/-- A tag that the device obeys comes before the instruction and before an interrupt (60_exceptions.md R535). -/
theorem boundary_tag {s : State} (hrun : s.run = .running) (hq : s.input.NoReset) (htag : s.input.tag = true)
    (hbdm : s.dev.bdmEnabled = true) : boundary s.popInput s.input = some s.popInput.enterBdm := by
  simp [boundary, hq.1, hrun, htag, hbdm]

theorem boundary_bdm {s : State} (hrun : s.run = .bdmActive) (hq : s.input.NoReset) :
    boundary s.popInput s.input = some (bdmStep s.popInput s.input) := by
  simp [boundary, hq.1, hrun]

/-- A CCR written by the BDM host: as `write_ccr` leaves it, but X from the data (60_exceptions.md R535, U21). -/
theorem ofByte_eq (c : Ccr) (v : Byte) :
    Ccr.ofByte v = { c.fromData v with x := decide (v.toNat / 64 % 2 = 1) } := by
  have hbit : v.getLsbD 6 = decide (v.toNat / 64 % 2 = 1) := by
    rw [BitVec.getLsbD, Nat.testBit_eq_decide_div_mod_eq]
  rw [← Ccr.write_eq, ← hbit]
  rfl

/-- Settles O60, clause by clause: BGND, a tag, the three steps of active background debug mode, NOP. -/
theorem backgroundModeAndNop : Obligations.BackgroundModeAndNop := by
  intro s
  refine ⟨fun h => .of (execBgnd_disabled h) rfl rfl rfl, fun h => .of (execBgnd_enabled h) rfl rfl rfl,
    fun hrun hq htag hbdm => ?tag, fun hrun hq hexit hwrites => ?idle, fun hrun hq hexit hwrites => ?leave,
    fun hrun hq a b c pg v x y sp t1 t2 t3 d key n hwrites => ?host, .of rfl rfl rfl rfl, rfl, rfl⟩
  case tag =>
    have hstep := step_of_boundary hq (boundary_tag hrun hq htag hbdm)
    rw [elapse_eq] at hstep
    exact ⟨_, hstep, rfl, rfl, rfl, rfl, rfl, rfl, rfl, rfl, rfl⟩
  case idle =>
    rw [step_of_boundary hq (boundary_bdm hrun hq)]
    simp [bdmStep, hwrites, hexit, State.popInput]
  case leave =>
    have hstep := step_of_boundary hq (boundary_bdm hrun hq)
    rw [elapse_eq] at hstep
    refine ⟨_, hstep, ?_⟩
    simp [bdmStep, hwrites, hexit, State.leaveBdm]
  case host =>
    intro u
    rw [step_of_boundary hq (boundary_bdm hrun hq)]
    simp only [bdmStep, hwrites, List.foldl_cons, List.foldl_nil, State.bdmWrite, ofByte_eq s.ccr]
    rfl

/-! ### Resets -/

theorem takeReset_afterReset (s : State) (v : Word) : AfterReset s (s.takeReset v) v :=
  ⟨rfl, rfl, rfl, rfl, rfl, rfl, rfl⟩

/-- What a reset leaves, seen after the devices have seen the step pass. -/
theorem AfterReset.elapse {u t : State} {v : Word} (h : AfterReset u t v) (s : State) : AfterReset u (s.elapse t) v := by
  rw [elapse_eq]; exact h

/-- A reset in the middle of what led to `t` finds memory and the devices as `t` has them. -/
theorem abandon_afterReset {u t : State} (hp : t.ppage = u.ppage) (hd : t.dev = u.dev) (hm : t.mem = u.mem)
    (hv : t.devices = u.devices) (r : ResetSource) : AfterReset u (t.abandon r) r.vector :=
  ⟨rfl, rfl, rfl, rfl, rfl, State.readWord_congr (s := u) (t := { t with writeLimit := none }) hp hd hm hv _, hm⟩

theorem finish_late_afterReset {s u t : State} {r : ResetSource} {n : Nat} (hl : s.input.late = some (r, n))
    (hp : t.ppage = u.ppage) (hd : t.dev = u.dev) (hm : t.mem = u.mem) (hv : t.devices = u.devices) :
    AfterReset u (s.finish t) r.vector ∧ (s.finish t).writeLimit = none := by
  rw [finish_late hl]
  refine ⟨(abandon_afterReset hp hd hm hv r).elapse s, ?_⟩
  rw [elapse_eq]
  rfl

/-- A reset requested at the boundary, in any run state (60_exceptions.md R503, R510). -/
theorem step_of_reset {s : State} {v : Word} (hv : s.input.resetVector = some v) :
    step s = .next (s.elapse (s.popInput.takeReset v)) := by
  have hlate : s.input.late = none := by simp [Inputs.late, hv]
  have hstart : s.start = s.popInput := by simp only [State.start, hlate]
  have hb : boundary s.popInput s.input = some (s.popInput.takeReset v) := by simp only [boundary, hv]
  simp only [step, hstart, hb, finish_quiet hlate]

theorem resetVector_of_request {q : Inputs} (h : (q.resetPin || q.clockMonitor || q.cop) = true) :
    q.resetVector = some (if q.resetPin then 0xFFFE else if q.clockMonitor then 0xFFFC else 0xFFFA) := by
  cases hpin : q.resetPin with
  | true => simp [Inputs.resetVector, hpin]
  | false =>
    cases hclock : q.clockMonitor with
    | true => simp [Inputs.resetVector, hpin, hclock]
    | false =>
      have hcop : q.cop = true := by simpa [hpin, hclock] using h
      simp [Inputs.resetVector, hpin, hclock, hcop]

/-- A reset in the middle of the instruction at a boundary (70_reset_and_hazards.md R551). -/
theorem step_cut_instruction {s cut u : State} {i : Instr} {rest : List Byte} (hstart : s.start = cut)
    (hb : boundary cut s.input = none) (hd : decode (fetchBytes cut) = .ok (i, rest)) (hu : exec i cut = .next u) :
    step s = .next (s.finish (endInstruction i cut u)) := by
  simp only [step, hstart, hb, executeNext, hd, hu]

/-! ### Writes that a reset cuts off -/

theorem storeByte_writeLimit (s : State) (a : Word) (v : Byte) : (s.storeByte a v).writeLimit = s.writeLimit :=
  (congrArg State.writeLimit (State.storeByte_limit s s.writeLimit a v) :)

/-- One byte of what a limit still lets happen (70_reset_and_hazards.md R551). -/
theorem writeByte_limit_succ (s : State) (n : Nat) (a : Word) (v : Byte) :
    { s with writeLimit := some (n + 1) }.writeByte a v = { s.storeByte a v with writeLimit := some n } :=
  State.storeByte_limit s (some n) a v

theorem writeByte_of_no_limit {s : State} (h : s.writeLimit = none) (a : Word) (v : Byte) :
    s.writeByte a v = s.storeByte a v := by
  unfold State.writeByte; rw [h]

/-- Of a word write a limit lets nothing, the high byte or both bytes happen (70_reset_and_hazards.md R551). -/
theorem writeWord_limited {s : State} (h : s.writeLimit = none) (a v : Word) (n : Nat) :
    { s with writeLimit := some 0 }.writeWord a v = { s with writeLimit := some 0 } ∧
    { s with writeLimit := some 1 }.writeWord a v = { s.writeByte a (hiByte v) with writeLimit := some 0 } ∧
    { s with writeLimit := some (n + 2) }.writeWord a v = { s.writeWord a v with writeLimit := some n } := by
  have hstored : (s.storeByte a (hiByte v)).writeLimit = none := (storeByte_writeLimit ..).trans h
  refine ⟨rfl, ?_, ?_⟩
  · rw [State.writeWord, writeByte_limit_succ, writeByte_of_no_limit h]
    rfl
  · rw [State.writeWord, writeByte_limit_succ, writeByte_limit_succ, State.writeWord, writeByte_of_no_limit h,
      writeByte_of_no_limit hstored]

/-- Settles O10: a reset at the boundary, a reset in the middle of an instruction or of an interrupt entry, and a word write
cut short. -/
theorem resetIsTakenFirst : Obligations.ResetIsTakenFirst := by
  refine ⟨fun s hreq => ?boundary, fun s src n hrun hq hlate htag => ?late, fun s a v n h => ?limit⟩
  case boundary =>
    have hstep := step_of_reset (resetVector_of_request hreq)
    refine ⟨_, hstep, ?_, ?_, (takeReset_afterReset s.popInput _).elapse s⟩ <;> rw [elapse_eq] <;> rfl
  case late =>
    intro v cut
    have hl : s.input.late = some (src, n) := by simp [Inputs.late, hq, hlate]
    have hstart : s.start = cut := by simp only [State.start, hl, cut]
    have hb : boundary cut s.input = (s.interruptPending s.input).map fun r => cut.exceptionEntry r.vector s.pc r.isXirq :=
      boundary_running hrun hq htag
    have hv : src.vector = v := by cases src <;> rfl
    refine ⟨fun i rest u hpend hd hu => ?_, fun r hpend => ?_⟩
    · rw [hpend] at hb
      obtain ⟨hreset, hlimit⟩ := finish_late_afterReset (s := s) (u := u) (t := endInstruction i cut u) hl rfl rfl rfl rfl
      exact ⟨_, step_cut_instruction hstart hb hd hu, hv ▸ hreset, hlimit⟩
    · rw [hpend] at hb
      obtain ⟨hreset, hlimit⟩ := finish_late_afterReset (s := s) (u := cut.exceptionEntry r.vector s.pc r.isXirq) hl
        rfl rfl rfl rfl
      refine ⟨_, ?_, hv ▸ hreset, hlimit⟩
      simp only [step, hstart, hb, Option.map_some]
  case limit => rw [← hiByte_eq]; exact writeWord_limited h a v n

end Sys2Proof.Machine
end

section
/-! PROOFS. What the decoder answers is well-formed (30_encoding.md R110, R114, R117, R118), row by row of the opcode maps, and so
a step runs a well-formed instruction (60_exceptions.md R503). -/

namespace Sys2Proof

/-! ### What a parser answers -/

/-- Whatever the parser answers has `P`. -/
def Yields {α : Type} (P : α → Prop) (p : Parser α) : Prop := ∀ bs v rest, p bs = .ok (v, rest) → P v

theorem Yields.any {α : Type} (p : Parser α) : Yields (fun _ => True) p := fun _ _ _ _ => trivial

theorem Yields.parse0 {α : Type} {P : α → Prop} {v : α} (h : P v) : Yields P (parse0 v) := by
  rintro _ _ _ ⟨⟩; exact h

theorem Yields.parse1 {α β : Type} {Q : α → Prop} {P : β → Prop} {p : Parser α} {f : α → β} (hp : Yields Q p)
    (hf : ∀ v, Q v → P (f v)) : Yields P (parse1 p f) := by
  intro bs w rest h
  unfold Sys2Proof.parse1 at h
  split at h
  · next v rest' hv => cases h; exact hf v (hp _ _ _ hv)
  · cases h

theorem Yields.parse2 {α β γ : Type} {Q : α → Prop} {R : β → Prop} {P : γ → Prop} {p : Parser α} {q : Parser β}
    {f : α → β → γ} (hp : Yields Q p) (hq : Yields R q) (hf : ∀ v w, Q v → R w → P (f v w)) :
    Yields P (parse2 p q f) := by
  intro bs w rest h
  unfold Sys2Proof.parse2 at h
  split at h
  · next v rest' hv => exact (hq.parse1 fun w hw => hf v w (hp _ _ _ hv) hw) _ _ _ h
  · cases h

theorem Yields.parse3 {α β γ δ : Type} {Q : α → Prop} {P : δ → Prop} {p : Parser α} {q : Parser β} {r : Parser γ}
    {f : α → β → γ → δ} (hp : Yields Q p) (hf : ∀ v w z, Q v → P (f v w z)) : Yields P (parse3 p q r f) := by
  intro bs w rest h
  unfold Sys2Proof.parse3 at h
  split at h
  · next v rest' hv => exact ((Yields.any q).parse2 (Yields.any r) fun w z _ _ => hf v w z (hp _ _ _ hv)) _ _ _ h
  · cases h

/-- An operand whose form the instruction checks has that form (30_encoding.md R110). -/
theorem Yields.parseChecked (ok : Idx → Bool) (p : Parser Idx) : Yields (fun i => ok i = true) (parseChecked ok p) := by
  intro bs v rest h
  unfold Sys2Proof.parseChecked at h
  split at h
  · split at h
    · next hok => cases h; exact hok
    · cases h
  · cases h

/-- The parser answers well-formed instructions only. -/
abbrev YieldsWellFormed (p : Parser Instr) : Prop := Yields Instr.WellFormed p

theorem Yields.fixed {i : Instr} (h : i.wellFormed = true) : YieldsWellFormed (Sys2Proof.parse0 i) := .parse0 h

/-- An instruction that accepts every operand of its kind. -/
theorem Yields.operand {α : Type} {p : Parser α} {f : α → Instr} (h : ∀ v, (f v).wellFormed = true) :
    YieldsWellFormed (Sys2Proof.parse1 p f) := (Yields.any p).parse1 fun v _ => h v

/-! ### The compound formats -/

/-- An indexed operand that is not indirect (30_encoding.md R110 (b)). -/
theorem yields_directIdx : Yields (fun o : MemOp => o.isDirect = true)
    (parse1 (parseChecked Idx.isDirect parseIdx) MemOp.idx) :=
  (Yields.parseChecked _ _).parse1 fun _ h => h

theorem yields_extMem : Yields (fun o : MemOp => o.isDirect = true) (parse1 parseWord MemOp.ext) :=
  (Yields.any _).parse1 fun _ _ => rfl

theorem yields_dirMem : Yields (fun o : MemOp => o.isDirect = true) (parse1 parseByte MemOp.dir) :=
  (Yields.any _).parse1 fun _ _ => rfl

/-- CALL has a page byte with the plain forms only (30_encoding.md R117). -/
theorem yields_parseCallIdx : YieldsWellFormed parseCallIdx := by
  intro bs v rest h
  unfold parseCallIdx at h
  split at h
  · next i rest' _ =>
    split at h
    · next hind => cases h; exact hind
    · next hind =>
      have hdirect (pg : Byte) : (Instr.call (.idx i pg)).WellFormed := by
        have hplain : (!i.indirect) = true := by simpa using hind
        exact hplain
      exact ((Yields.any parseByte).parse1 fun pg _ => hdirect pg) _ _ _ h
  · cases h

theorem loopInstr_wellFormed (kind : BitVec 3) (r : LoopReg) (off : BitVec 9) : (loopInstr kind r off).WellFormed := by
  unfold loopInstr
  split <;> rfl

/-- A loop postbyte is a loop primitive, or one of the unassigned ones from $C0 on (30_encoding.md R114). -/
theorem yields_parseLoop : YieldsWellFormed parseLoop := by
  intro bs v rest h
  unfold parseLoop at h
  split at h
  · split at h
    · next hun => cases h; exact hun
    · split at h
      · cases h; exact loopInstr_wellFormed _ _ _
      · cases h
  · cases h

theorem yields_parseTransfer : YieldsWellFormed parseTransfer :=
  (Yields.any parseByte).parse1 fun eb _ => by dsimp only; split <;> rfl

/-! ### Page 2 (30_encoding.md R121) -/

theorem page2Row0_wellFormed (lo : Nat) : YieldsWellFormed (page2Row0 lo) := by
  have hshort := Yields.parseChecked Idx.isShort parseIdx
  have himm (i : Idx) (h : i.isShort = true) : (true && i.isShort) = true := h
  have hext (i : Idx) (h : i.isShort = true) : (i.isShort && true) = true := by simp [h]
  unfold page2Row0
  split
  case h_1 | h_2 | h_9 | h_10 => exact hshort.parse2 (.any _) fun i _ h _ => himm i h
  case h_3 | h_11 =>
    exact hshort.parse2 hshort fun i j hi hj => show (i.isShort && j.isShort) = true by simp [hi, hj]
  case h_4 | h_5 | h_12 | h_13 => exact (Yields.any _).parse2 (.any _) fun _ _ _ _ => rfl
  case h_6 | h_14 => exact hshort.parse2 (.any _) fun i _ h _ => hext i h
  all_goals exact .fixed rfl

theorem page2Row1_wellFormed (lo : Nat) : YieldsWellFormed (page2Row1 lo) := by
  unfold page2Row1
  split
  case h_3 | h_9 | h_10 | h_11 | h_12 | h_13 | h_14 | h_15 | h_16 => exact .operand fun _ => rfl
  all_goals exact .fixed rfl

theorem page2Row2_wellFormed (lo : Nat) : YieldsWellFormed (page2Row2 lo) := by
  unfold page2Row2
  split <;> exact .operand fun _ => rfl

/-- The opcodes $30 to $39 of page 2 are trap numbers (30_encoding.md R118). -/
theorem trap_row3_wellFormed {lo : Nat} (h : lo < 10) : trapNumberOk (BitVec.ofNat 8 (0x30 + lo)) = true := by
  simp only [trapNumberOk, BitVec.toNat_ofNat, Bool.or_eq_true, Bool.and_eq_true, decide_eq_true_eq]
  omega

theorem page2Row3_wellFormed {lo : Nat} (hlo : lo < 16) : YieldsWellFormed (page2Row3 lo) := by
  have hshort := Yields.parseChecked Idx.isShort parseIdx
  unfold page2Row3
  split
  case h_4 | h_6 => exact hshort.parse1 fun _ h => h
  case h_7 => exact .fixed (trap_row3_wellFormed (by grind))
  all_goals exact .fixed rfl

theorem decodePage2_wellFormed : YieldsWellFormed decodePage2 := by
  intro bs v rest h
  unfold decodePage2 at h
  split at h
  · cases h
  · next op rest' =>
    dsimp only at h
    split at h
    · exact page2Row0_wellFormed _ _ _ _ h
    · exact page2Row1_wellFormed _ _ _ _ h
    · exact page2Row2_wellFormed _ _ _ _ h
    · exact page2Row3_wellFormed (Nat.mod_lt _ (by decide)) _ _ _ h
    · cases h
      have hop : 0x40 ≤ op.toNat := by grind
      have hnumber : trapNumberOk op = true := by simp [trapNumberOk, hop]
      exact hnumber

/-! ### Page 1 (30_encoding.md R120) -/

theorem page1Row0_wellFormed (lo : Nat) : YieldsWellFormed (page1Row0 lo) := by
  unfold page1Row0
  split
  case h_5 => exact yields_parseLoop
  case h_6 | h_7 | h_8 => exact .operand fun _ => rfl
  case h_13 | h_14 => exact yields_directIdx.parse2 (.any _) fun _ _ h _ => h
  case h_15 | h_16 => exact yields_directIdx.parse3 fun _ _ _ h => h
  all_goals exact .fixed rfl

theorem page1Row1_wellFormed (lo : Nat) : YieldsWellFormed (page1Row1 lo) := by
  unfold page1Row1
  split
  case h_1 | h_5 | h_6 | h_7 | h_8 => exact .operand fun _ => rfl
  case h_9 => exact decodePage2_wellFormed
  case h_10 | h_11 | h_12 => exact (Yields.parseChecked _ _).parse1 fun _ h => h
  case h_13 | h_14 => exact yields_extMem.parse2 (.any _) fun _ _ h _ => h
  case h_15 | h_16 => exact yields_extMem.parse3 fun _ _ _ h => h
  all_goals exact .fixed rfl

theorem page1Row2_wellFormed (lo : Nat) : YieldsWellFormed (page1Row2 lo) := by
  unfold page1Row2
  split <;> exact .operand fun _ => rfl

theorem page1Row3_wellFormed (lo : Nat) : YieldsWellFormed (page1Row3 lo) := by
  unfold page1Row3
  split <;> exact .fixed rfl

theorem page1Row4_wellFormed (lo : Nat) : YieldsWellFormed (page1Row4 lo) := by
  unfold page1Row4
  split
  case h_11 => exact (Yields.any _).parse2 (.any _) fun _ _ _ _ => rfl
  case h_12 => exact yields_parseCallIdx
  case h_13 | h_14 => exact yields_dirMem.parse2 (.any _) fun _ _ h _ => h
  case h_15 | h_16 => exact yields_dirMem.parse3 fun _ _ _ h => h
  all_goals exact .fixed rfl

theorem page1Row5_wellFormed (lo : Nat) : YieldsWellFormed (page1Row5 lo) := by
  unfold page1Row5
  split
  case h_11 | h_12 | h_13 | h_14 | h_15 | h_16 => exact .operand fun _ => rfl
  all_goals exact .fixed rfl

theorem page1Row6_wellFormed (lo : Nat) : YieldsWellFormed (page1Row6 lo) := by
  unfold page1Row6
  split <;> exact .operand fun _ => rfl

theorem page1Row7_wellFormed (lo : Nat) : YieldsWellFormed (page1Row7 lo) := by
  unfold page1Row7
  split <;> exact .operand fun _ => rfl

theorem page1Row8_wellFormed (lo : Nat) : YieldsWellFormed (page1Row8 lo) := by
  unfold page1Row8
  split
  case h_8 => exact .fixed rfl
  all_goals exact .operand fun _ => rfl

theorem page1Row9_wellFormed (lo : Nat) : YieldsWellFormed (page1Row9 lo) := by
  unfold page1Row9
  split
  case h_8 => exact .fixed rfl
  all_goals exact .operand fun _ => rfl

theorem page1RowA_wellFormed (lo : Nat) : YieldsWellFormed (page1RowA lo) := by
  unfold page1RowA
  split
  case h_8 => exact .fixed rfl
  all_goals exact .operand fun _ => rfl

theorem page1RowB_wellFormed (lo : Nat) : YieldsWellFormed (page1RowB lo) := by
  unfold page1RowB
  split
  case h_8 => exact yields_parseTransfer
  all_goals exact .operand fun _ => rfl

theorem page1RowC_wellFormed (lo : Nat) : YieldsWellFormed (page1RowC lo) := by
  unfold page1RowC
  split
  case h_8 => exact .fixed rfl
  all_goals exact .operand fun _ => rfl

theorem page1RowD_wellFormed (lo : Nat) : YieldsWellFormed (page1RowD lo) := by
  unfold page1RowD
  split
  case h_8 => exact .fixed rfl
  all_goals exact .operand fun _ => rfl

theorem page1RowE_wellFormed (lo : Nat) : YieldsWellFormed (page1RowE lo) := by
  unfold page1RowE
  split <;> exact .operand fun _ => rfl

theorem page1RowF_wellFormed (lo : Nat) : YieldsWellFormed (page1RowF lo) := by
  unfold page1RowF
  split <;> exact .operand fun _ => rfl

/-- What the decoder answers is well-formed. -/
theorem decode_wellFormed : YieldsWellFormed decode := by
  intro bs v rest h
  unfold decode at h
  split at h
  · cases h
  · dsimp only at h
    split at h
    · exact page1Row0_wellFormed _ _ _ _ h
    · exact page1Row1_wellFormed _ _ _ _ h
    · exact page1Row2_wellFormed _ _ _ _ h
    · exact page1Row3_wellFormed _ _ _ _ h
    · exact page1Row4_wellFormed _ _ _ _ h
    · exact page1Row5_wellFormed _ _ _ _ h
    · exact page1Row6_wellFormed _ _ _ _ h
    · exact page1Row7_wellFormed _ _ _ _ h
    · exact page1Row8_wellFormed _ _ _ _ h
    · exact page1Row9_wellFormed _ _ _ _ h
    · exact page1RowA_wellFormed _ _ _ _ h
    · exact page1RowB_wellFormed _ _ _ _ h
    · exact page1RowC_wellFormed _ _ _ _ h
    · exact page1RowD_wellFormed _ _ _ _ h
    · exact page1RowE_wellFormed _ _ _ _ h
    · exact page1RowF_wellFormed _ _ _ _ h

end Sys2Proof

namespace Sys2Proof.Machine

/-- The end of an instruction, its latch written as a conjunction (60_exceptions.md R503). -/
theorem endInstruction_eq (i : Instr) (s t : State) :
    endInstruction i s t = { t with
      iDelay := (writesDelay i || midRuleList i s t) && t.iDelay
      tmp2Known := t.tmp2Known && definesTmp2 i
      tmp3Known := t.tmp3Known && definesTmp3 i
      ruleAhead := if midRuleList i s t = true then t.ruleAhead else none } := by
  unfold endInstruction
  cases writesDelay i || midRuleList i s t <;> rfl

/-- Without a device register the devices see nothing of a step. -/
theorem elapse_of_no_register {s : State} (h : ∀ r ∈ s.dev.regions, r.kind ≠ .register) (t : State) :
    s.elapse t = t := by
  unfold State.elapse
  rw [if_neg]
  simpa using h

/-- Settles O7, from what a step does at a quiet boundary and what the decoder answers. -/
theorem stepRunsTheDecodedInstruction : Obligations.StepRunsTheDecodedInstruction := by
  refine ⟨fun s i rest hquiet hd => ⟨decode_wellFormed _ _ _ hd, fun t ht => ?_, fun r hr => ?_⟩,
    fun s t => ⟨elapse_eq s t, fun h => elapse_of_no_register h t⟩⟩
  · rw [step_next_of_quiet hquiet hd ht, endInstruction_eq]
  · exact step_refused_of_quiet hquiet hd hr

end Sys2Proof.Machine
end

section
/-! PROOFS. A byte write and what is read afterwards, and what a device register sees of an instruction (20_memory.md R62, R65, R70
to R72; 10_state.md R35). -/

namespace Sys2Proof.Machine

/-! ### PPAGE at its memory-mapped address -/

/-- A write to PPAGE's own address changes PPAGE alone (10_state.md R35). -/
theorem writeByte_at_ppage {s : State} {a : Word} (hi : s.Inv) (ha : s.dev.ppageAddr = some a) (v : Byte) :
    s.writeByte a v = { s with ppage := v } := by
  rw [State.writeByte_eq hi, State.storeByte, if_pos ha]

theorem readByte_at_ppage {s : State} {a : Word} (ha : s.dev.ppageAddr = some a) : s.readByte a = s.ppage := by
  rw [State.readByte, if_pos ha]

theorem touch_at_ppage {s : State} {a : Word} (ha : s.dev.ppageAddr = some a) : s.touch a = s := by
  rw [State.touch, State.afterRead, if_pos ha]

theorem execStaa_at_ppage {s : State} {a : Word} (hi : s.Inv) (ha : s.dev.ppageAddr = some a) :
    exec (.staa (.ext a)) s = .next { s with ppage := s.a, ccr := s.ccr.moved s.a, pc := s.npc 3 } := by
  have hexec : exec (.staa (.ext a)) s = .next { (s.writeByte a s.a).nzv0 s.a with pc := s.npc 3 } := rfl
  rw [hexec, writeByte_at_ppage hi ha, State.nzv0, Ccr.nzv0_eq]

/-! ### One access of a device register -/

/-- `a` is the address of a device register, and not PPAGE's own (20_memory.md R70). -/
def State.IsRegister (s : State) (a : Word) : Prop := s.NotPpage a ∧ s.dev.kindAt (s.physKey a) = some .register

/-- A write to a device register is the device's own function of its state (20_memory.md R70). -/
theorem writeByte_register {s : State} {a : Word} (hi : s.Inv) (h : s.IsRegister a) (v : Byte) :
    s.writeByte a v = { s with devices := Config.deviceWrite s.devices (s.physKey a) v } := by
  rw [State.writeByte_eq hi, State.storeByte, if_neg h.1, h.2]

theorem readByte_register {s : State} {a : Word} (h : s.IsRegister a) :
    s.readByte a = Config.deviceRead s.devices (s.physKey a) := by
  rw [State.readByte, if_neg h.1, h.2]

/-- A byte of a range of device registers is one. -/
theorem State.RegistersFrom.isRegister {s : State} {a : Word} {n : Nat} (h : s.RegistersFrom a n) (k : Nat) (hk : k < n) :
    s.IsRegister (a + BitVec.ofNat 16 k) := h k hk

/-! ### Accesses of several device registers, in their order (20_memory.md R65) -/

/-- The state after reads of these addresses. -/
def State.touchAll (s : State) (l : List Word) : State := l.foldl State.touch s

/-- The state after writes of these bytes. -/
def State.writeAll (s : State) (l : List (Word × Byte)) : State := l.foldl (fun u w => u.writeByte w.1 w.2) s

/-- Reads of device registers change the devices alone, each by the device's own function. -/
theorem touchAll_registers {s : State} {l : List Word} (h : ∀ a ∈ l, s.IsRegister a) :
    s.touchAll l = { s with devices := l.foldl (fun n a => Config.deviceAfterRead n (s.physKey a)) s.devices } := by
  induction l generalizing s with
  | nil => rfl
  | cons a l ih =>
    obtain ⟨ha, hl⟩ := List.forall_mem_cons.1 h
    have hcons : s.touchAll (a :: l) = (s.touch a).touchAll l := rfl
    rw [hcons, State.touch_register ha.1 ha.2]
    exact ih (s := { s with devices := Config.deviceAfterRead s.devices (s.physKey a) }) hl

/-- Writes of device registers change the devices alone, each by the device's own function. -/
theorem writeAll_registers {s : State} {l : List (Word × Byte)} (hi : s.Inv) (h : ∀ w ∈ l, s.IsRegister w.1) :
    s.writeAll l =
      { s with devices := l.foldl (fun n w => Config.deviceWrite n (s.physKey w.1) w.2) s.devices } := by
  induction l generalizing s with
  | nil => rfl
  | cons w l ih =>
    obtain ⟨hw, hl⟩ := List.forall_mem_cons.1 h
    have hcons : s.writeAll (w :: l) = (s.writeByte w.1 w.2).writeAll l := rfl
    rw [hcons, writeByte_register hi hw]
    exact ih (s := { s with devices := Config.deviceWrite s.devices (s.physKey w.1) w.2 }) hi hl

/-- An instruction that completes and leaves the devices as these reads and then these writes do. -/
theorem Accesses.of {i : Instr} {s t : State} {reads writes : List Word} {vs : List Byte} (hi : s.Inv)
    (hreads : ∀ a ∈ reads, s.IsRegister a) (hwrites : ∀ a ∈ writes, s.IsRegister a) (he : exec i s = .next t)
    (hlen : vs.length = writes.length)
    (hdev : t.devices = ((s.touchAll reads).writeAll (writes.zip vs)).devices) : Accesses i s reads writes := by
  refine ⟨t, vs, he, hlen, ?_⟩
  have hzip : ∀ w ∈ writes.zip vs, s.IsRegister w.1 := fun w hw => hwrites w.1 (List.of_mem_zip hw).1
  rw [hdev, touchAll_registers hreads]
  generalize reads.foldl (fun n a => Config.deviceAfterRead n (s.physKey a)) s.devices = d
  rw [writeAll_registers (s := { s with devices := d }) hi hzip]
  rfl

/-! ### Operands that reach the register at `a` -/

/-- An indexed operand whose offset from X leads to `a` (30_encoding.md R103). -/
theorem withIdx_off16_to (k : Nat) (f : Word → State → State) (s : State) (a : Word) :
    withIdx k (.off16 .x (a - s.x)) f s = .next { f a s with pc := s.npc (k + 3) } := by
  have hea : s.x + (a - s.x) = a := by bv_omega
  have hidx : withIdx k (.off16 .x (a - s.x)) f s = .next { f (s.x + (a - s.x)) s with pc := s.npc (k + 3) } := rfl
  rw [hidx, hea]

section OneByte

variable {s : State} {a : Word}

theorem forall_isRegister_one (h : s.RegistersFrom a 1) : ∀ b ∈ [a], s.IsRegister b := by
  have h0 := h.isRegister 0 (by decide)
  simpa using h0

theorem Accesses.read_write {i : Instr} {t : State} (v : Byte) (hi : s.Inv) (h : s.RegistersFrom a 1)
    (he : exec i s = .next t) (hdev : t.devices = ((s.touch a).writeByte a v).devices) : Accesses i s [a] [a] :=
  .of (vs := [v]) hi (forall_isRegister_one h) (forall_isRegister_one h) he rfl hdev

theorem Accesses.write {i : Instr} {t : State} (v : Byte) (hi : s.Inv) (h : s.RegistersFrom a 1)
    (he : exec i s = .next t) (hdev : t.devices = (s.writeByte a v).devices) : Accesses i s [] [a] :=
  .of (vs := [v]) hi (by simp) (forall_isRegister_one h) he rfl hdev

theorem Accesses.read {i : Instr} {t : State} (hi : s.Inv) (h : s.RegistersFrom a 1) (he : exec i s = .next t)
    (hdev : t.devices = (s.touch a).devices) : Accesses i s [a] [] :=
  .of (vs := []) hi (forall_isRegister_one h) (by simp) he rfl hdev

/-- An in-place instruction reads its operand once and then writes it once (20_memory.md R65). -/
theorem accesses_modify8 {i : Instr} {f : Byte → Byte} {flags : Byte → State → State} {p : Word} (hi : s.Inv)
    (h : s.RegistersFrom a 1) (he : exec i s = .next { modify8 f flags a s with pc := p })
    (hflags : ∀ m u, (flags m u).devices = u.devices) : Accesses i s [a] [a] :=
  .read_write (f (s.readByte a)) hi h he (hflags _ _)

/-- An instruction on an indexed operand that reads it once and then writes it once. -/
theorem accesses_withIdx {i : Instr} {k : Nat} {f : Word → State → State} {v : Byte} (hi : s.Inv)
    (h : s.RegistersFrom a 1) (he : exec i s = withIdx k (.off16 .x (a - s.x)) f s)
    (hdev : (f a s).devices = ((s.touch a).writeByte a v).devices) : Accesses i s [a] [a] :=
  .read_write v hi h (he.trans (withIdx_off16_to k f s a)) hdev

theorem inPlace_accesses (mm : Byte) (hi : s.Inv) (h : s.RegistersFrom a 1) : let x := Idx.off16 .x (a - s.x)
    ∀ i ∈ [Instr.neg (.ext a), .com (.ext a), .inc (.ext a), .dec (.ext a), .asl (.ext a), .lsl (.ext a), .asr (.ext a),
        .lsr (.ext a), .rol (.ext a), .ror (.ext a), .bset (.ext a) mm, .bclr (.ext a) mm, .minm x, .maxm x],
      Accesses i s [a] [a] := by
  intro x
  simp only [List.forall_mem_cons]
  refine ⟨?_, ?_, ?_, ?_, ?_, ?_, ?_, ?_, ?_, ?_, ?_, ?_, ?minm, ?maxm, by simp⟩
  case minm => exact accesses_withIdx hi h (execMinm.eq_def x s) rfl
  case maxm => exact accesses_withIdx hi h (execMaxm.eq_def x s) rfl
  all_goals exact accesses_modify8 hi h rfl fun _ _ => rfl

theorem store_accesses (hi : s.Inv) (h : s.RegistersFrom a 1) :
    ∀ i ∈ [Instr.clr (.ext a), .staa (.ext a), .stab (.ext a)], Accesses i s [] [a] := by
  simp only [List.forall_mem_cons]
  exact ⟨.write _ hi h rfl rfl, .write _ hi h rfl rfl, .write _ hi h rfl rfl, by simp⟩

theorem test_accesses (mm rr : Byte) (hi : s.Inv) (h : s.RegistersFrom a 1) :
    ∀ i ∈ [Instr.tst (.ext a), .cmpa (.ext a), .cmpb (.ext a), .bita (.ext a), .bitb (.ext a), .brset (.ext a) mm rr,
        .brclr (.ext a) mm rr], Accesses i s [a] [] := by
  simp only [List.forall_mem_cons]
  exact ⟨.read hi h rfl rfl, .read hi h rfl rfl, .read hi h rfl rfl, .read hi h rfl rfl, .read hi h rfl rfl,
    .read hi h rfl rfl, .read hi h rfl rfl, by simp⟩

end OneByte

section TwoBytes

variable {s : State} {a : Word}

theorem forall_isRegister_two (h : s.RegistersFrom a 2) : ∀ b ∈ [a, a + 1], s.IsRegister b := by
  have h0 := h.isRegister 0 (by decide)
  have h1 := h.isRegister 1 (by decide)
  simp only [List.forall_mem_cons]
  exact ⟨by simpa using h0, h1, by simp⟩

theorem Accesses.readWord_writeWord {i : Instr} {t : State} (v : Word) (hi : s.Inv) (h : s.RegistersFrom a 2)
    (he : exec i s = .next t) (hdev : t.devices = ((s.touchWord a).writeWord a v).devices) :
    Accesses i s [a, a + 1] [a, a + 1] :=
  .of (vs := [hiByte v, loByte v]) hi (forall_isRegister_two h) (forall_isRegister_two h) he rfl hdev

theorem Accesses.writeWord {i : Instr} {t : State} (v : Word) (hi : s.Inv) (h : s.RegistersFrom a 2)
    (he : exec i s = .next t) (hdev : t.devices = (s.writeWord a v).devices) : Accesses i s [] [a, a + 1] :=
  .of (vs := [hiByte v, loByte v]) hi (by simp) (forall_isRegister_two h) he rfl hdev

theorem Accesses.readWord {i : Instr} {t : State} (hi : s.Inv) (h : s.RegistersFrom a 2) (he : exec i s = .next t)
    (hdev : t.devices = (s.touchWord a).devices) : Accesses i s [a, a + 1] [] :=
  .of (vs := []) hi (forall_isRegister_two h) (by simp) he rfl hdev

theorem accessesWord_withIdx {i : Instr} {k : Nat} {f : Word → State → State} {v : Word} (hi : s.Inv)
    (h : s.RegistersFrom a 2) (he : exec i s = withIdx k (.off16 .x (a - s.x)) f s)
    (hdev : (f a s).devices = ((s.touchWord a).writeWord a v).devices) : Accesses i s [a, a + 1] [a, a + 1] :=
  .readWord_writeWord v hi h (he.trans (withIdx_off16_to k f s a)) hdev

theorem word_accesses (hi : s.Inv) (h : s.RegistersFrom a 2) : let x := Idx.off16 .x (a - s.x); let w := [a, a + 1]
    (∀ i ∈ [Instr.eminm x, .emaxm x], Accesses i s w w) ∧
    (∀ i ∈ [Instr.std (.ext a), .stx (.ext a), .sty (.ext a), .sts (.ext a)], Accesses i s [] w) ∧
    (∀ i ∈ [Instr.cpd (.ext a), .cpx (.ext a), .cpy (.ext a), .cps (.ext a)], Accesses i s w []) := by
  intro x w
  simp only [List.forall_mem_cons]
  refine ⟨⟨?_, ?_, by simp⟩, ⟨?_, ?_, ?_, ?_, by simp⟩, .readWord hi h rfl rfl, .readWord hi h rfl rfl,
    .readWord hi h rfl rfl, .readWord hi h rfl rfl, by simp⟩
  · exact accessesWord_withIdx hi h (execEminm.eq_def x s) rfl
  · exact accessesWord_withIdx hi h (execEmaxm.eq_def x s) rfl
  all_goals exact .writeWord _ hi h rfl rfl

end TwoBytes

/-! ### EMACS -/

theorem forall_isRegister_four {s : State} {a : Word} (h : s.RegistersFrom a 4) :
    ∀ b ∈ [a, a + 1, a + 2, a + 3], s.IsRegister b := by
  have h0 := h.isRegister 0 (by decide)
  simp only [List.forall_mem_cons]
  exact ⟨by simpa using h0, h.isRegister 1 (by decide), h.isRegister 2 (by decide), h.isRegister 3 (by decide), by simp⟩

/-- The four bytes of a number in memory, the high-order one first, read in ascending order (20_memory.md R64). -/
theorem touchLong_eq_touchAll (s : State) (a : Word) : s.touchLong a = s.touchAll [a, a + 1, a + 2, a + 3] := by
  have h3 : a + 2 + 1 = a + 3 := by bv_omega
  rw [← h3]
  rfl

theorem writeLong_eq_writeAll (s : State) (a : Word) (v : BitVec 32) :
    s.writeLong a v = s.writeAll ([a, a + 1, a + 2, a + 3].zip
      [hiByte (hiWord v), loByte (hiWord v), hiByte (loWord v), loByte (loWord v)]) := by
  have h3 : a + 2 + 1 = a + 3 := by bv_omega
  rw [← h3]
  rfl

/-- EMACS, its operands at X and Y no device registers (43_muldiv.md R330). -/
theorem emacs_accesses {s : State} {a : Word} (hi : s.Inv) (h : s.RegistersFrom a 4)
    (hn : ∀ b ∈ [s.x, s.x + 1, s.y, s.y + 1], s.NotRegister b) :
    Accesses (.emacs a) s [a, a + 1, a + 2, a + 3] [a, a + 1, a + 2, a + 3] := by
  simp only [List.forall_mem_cons] at hn
  obtain ⟨hx, hx', hy, hy', -⟩ := hn
  have hreads : (s.touchWord s.x).touchWord s.y = s := by
    rw [State.touchWord_eq hx hx', State.touchWord_eq hy hy']
  obtain ⟨t, v, ht, hdev⟩ : ∃ t v, exec (.emacs a) s = .next t ∧
      t.devices = ((((s.touchWord s.x).touchWord s.y).touchLong a).writeLong a v).devices := ⟨_, _, rfl, rfl⟩
  rw [hreads, touchLong_eq_touchAll, writeLong_eq_writeAll] at hdev
  exact .of hi (forall_isRegister_four h) (forall_isRegister_four h) ht rfl hdev

/-- Settles O14, by what the address is: plain storage, ROM or no memory; PPAGE's own; a device register. -/
theorem byteWriteThenRead : Obligations.ByteWriteThenRead := by
  refine ⟨fun s a b v hi ha => ?storage, fun s a v hi ha => ?ppage, fun s a v hi ha hk => ?register,
    fun s a h => ?untouched, fun s a mm rr hi h => ?oneByte, fun s a hi h => word_accesses hi h,
    fun s a hi h hn => emacs_accesses hi h hn⟩
  case storage =>
    exact ⟨State.readByte_writeByte hi ha v, fun h => State.physKey_inj h, State.writeByte_ppage ha v,
      fun h => State.writeByte_devices h v⟩
  case ppage =>
    refine ⟨writeByte_at_ppage hi ha v, ?_, execStaa_at_ppage hi ha⟩
    rw [writeByte_at_ppage hi ha, readByte_at_ppage (s := { s with ppage := v }) ha]
  case register =>
    exact ⟨writeByte_register hi ⟨ha, hk⟩ v, readByte_register ⟨ha, hk⟩, State.touch_register ha hk⟩
  case untouched =>
    obtain hp | hr := h
    · exact touch_at_ppage (not_not.1 hp)
    · exact State.touch_eq hr
  case oneByte =>
    exact ⟨inPlace_accesses mm hi h, store_accesses hi h, test_accesses mm rr hi h⟩

end Sys2Proof.Machine
end

section
/-! PROOFS. Words in memory (20_memory.md R61, R62, R64), and the pages of expanded memory (20_memory.md R72;
92_eei_decisions.md D7). -/

namespace Sys2Proof.Machine

/-! ### Words -/

/-- A word is the byte read first times 256, plus the byte read next (20_memory.md R61, R64). -/
theorem readWord_toNat (s : State) (a : Word) :
    (s.readWord a).toNat = 256 * (s.readByte a).toNat + ((s.touch a).readByte (a + 1)).toNat := word_toNat _ _

/-- The two byte writes of a word, the high-order byte's first (20_memory.md R62, R64). -/
theorem writeWord_eq (s : State) (a v : Word) : s.writeWord a v =
    (s.writeByte a (BitVec.ofNat 8 (v.toNat / 256))).writeByte (a + 1) (BitVec.ofNat 8 v.toNat) := by
  rw [State.writeWord, hiByte_eq, loByte_eq]

/-- Settles O15; the wrap at $FFFF is the first clause there, since $FFFF + 1 is 0 among the words. -/
theorem wordsAreBigEndianAndWrap : Obligations.WordsAreBigEndianAndWrap := by
  intro s a v
  have hstored : BytesStored s (s.writeWord a v) a (wordBE v) := by
    rw [wordBE_eq]
    exact State.writeWord_stored s a v
  exact ⟨readWord_toNat s a, readWord_toNat s 0xFFFF, rfl, writeWord_eq s a v, hstored⟩

/-! ### The physical byte and the page -/

/-- Outside the window the base map holds, whatever the page (20_memory.md R72). -/
theorem mapKey_outside_window {s : State} {a : Word} (h : a.toNat < 0x8000 ∨ 0xC000 ≤ a.toNat) :
    s.mapKey a = a.toNat := by
  rw [State.mapKey, if_neg]
  simp only [Bool.and_eq_true, decide_eq_true_eq]
  omega

/-- In the window the implemented bits of PPAGE select the page (20_memory.md R72). -/
theorem mapKey_in_window {s : State} {a : Word} (hx : s.dev.hasExpandedMemory = true) (hlo : 0x8000 ≤ a.toNat)
    (hhi : a.toNat < 0xC000) :
    s.mapKey a = 0x10000 + (s.ppage &&& s.dev.ppageBits).toNat * 0x4000 + (a.toNat - 0x8000) := by
  rw [State.mapKey, if_pos]
  simp only [hx, hlo, hhi, decide_true, Bool.and_self]

/-- PPAGE selects by its implemented bits alone (20_memory.md R72). -/
theorem mapKey_of_same_page {s : State} {q : Byte} (h : q &&& s.dev.ppageBits = s.ppage &&& s.dev.ppageBits) (a : Word) :
    { s with ppage := q }.mapKey a = s.mapKey a := by
  simp only [State.mapKey, h]

/-- What an address of the window reaches under one page, no address reaches under another page. -/
theorem mapKey_ne_of_other_page {s : State} {a : Word} {q : Byte} (hx : s.dev.hasExpandedMemory = true)
    (hlo : 0x8000 ≤ a.toNat) (hhi : a.toNat < 0xC000) (hq : q &&& s.dev.ppageBits ≠ s.ppage &&& s.dev.ppageBits)
    (b : Word) : { s with ppage := q }.mapKey b ≠ s.mapKey a := by
  rw [mapKey_in_window hx hlo hhi]
  by_cases hb : b.toNat < 0x8000 ∨ 0xC000 ≤ b.toNat
  · rw [mapKey_outside_window (s := { s with ppage := q }) hb]
    omega
  · rw [mapKey_in_window (s := { s with ppage := q }) hx (by omega) (by omega)]
    have hpage : (q &&& s.dev.ppageBits).toNat ≠ (s.ppage &&& s.dev.ppageBits).toNat :=
      fun e => hq (BitVec.eq_of_toNat_eq e)
    dsimp only
    omega

/-- Where MEM_MAP has no alias a physical byte is its own only name (92_eei_decisions.md D7). -/
theorem physKey_of_no_aliases {s : State} (h : s.dev.aliases = []) (a : Word) : s.physKey a = s.mapKey a := by
  rw [State.physKey, Device.resolve, h, List.find?_nil]

/-! ### Reads while another page is selected -/

/-- Away from PPAGE's own address PPAGE matters to a read only through the physical byte it selects. -/
theorem readByte_of_mapKey {s : State} {a : Word} {q : Byte} (hn : s.NotPpage a)
    (hk : { s with ppage := q }.mapKey a = s.mapKey a) : { s with ppage := q }.readByte a = s.readByte a := by
  simp only [State.readByte, State.physKey, hk]
  rw [if_neg hn, if_neg hn]

/-- A byte write to plain storage changes memory at one physical byte (20_memory.md R62). -/
theorem writeByte_storage {s : State} {a : Word} (hi : s.Inv) (ha : s.Stores a) (v : Byte) :
    s.writeByte a v = { s with mem := s.mem.write (s.physKey a) v } := by
  obtain ⟨hp, hk⟩ := ha
  rw [State.writeByte_eq hi, State.storeByte, if_neg hp, hk]

/-- Memory changed at another physical byte is not seen. -/
theorem readByte_of_mem_write_ne {s : State} {b : Word} {k : Nat} (hwf : s.mem.wf = true) (hk : s.physKey b ≠ k)
    (v : Byte) : { s with mem := s.mem.write k v }.readByte b = s.readByte b := by
  have hkey : { s with mem := s.mem.write k v }.physKey b = s.physKey b := State.physKey_congr rfl rfl b
  have hread : (s.mem.write k v).read (s.physKey b) = s.mem.read (s.physKey b) := by
    rw [Memory.read_write hwf, if_neg hk]
  simp only [State.readByte, hkey, hread]

/-- A byte written to plain storage is read back at its address (20_memory.md R62). -/
theorem readByte_writeByte_same {s : State} {a : Word} (hi : s.Inv) (ha : s.Stores a) (v : Byte) :
    (s.writeByte a v).readByte a = v := by
  obtain ⟨hp, hk⟩ := ha
  have hr : s.NotRegister a := by rw [State.NotRegister, hk]; nofun
  rw [State.readByte_writeByte hi hp v hr, if_pos ⟨hp, rfl, hk⟩]

/-- Settles O16, by what the implemented bits of PPAGE select: the page written, another page, or, outside the window,
nothing. -/
theorem programPagesAreSeparate : Obligations.ProgramPagesAreSeparate := by
  intro s a b v q hi hx ha hb hlo hhi
  refine ⟨fun hq => ?samePage, fun hq hal => ?otherPage, fun hout => ?outside⟩
  case samePage =>
    have hback := readByte_writeByte_same hi ha v
    rw [writeByte_storage hi ha] at hback ⊢
    exact (readByte_of_mapKey (s := { s with mem := s.mem.write (s.physKey a) v }) ha.1
      (mapKey_of_same_page hq a)).trans hback
  case otherPage =>
    have hne : { s with ppage := q }.physKey b ≠ s.physKey a := by
      rw [physKey_of_no_aliases hal, physKey_of_no_aliases (s := { s with ppage := q }) hal]
      exact mapKey_ne_of_other_page hx hlo hhi hq b
    rw [writeByte_storage hi ha]
    exact readByte_of_mem_write_ne (s := { s with ppage := q }) hi.1 hne v
  case outside =>
    exact readByte_of_mapKey hb ((mapKey_outside_window hout).trans (mapKey_outside_window hout).symm)

end Sys2Proof.Machine
end

section
/-! PROOFS. The decoder reads back what the encoder writes (30_encoding.md R91 to R126): the operand fields, the compound formats, and
so every instruction. -/

namespace Sys2Proof

open Sys2Proof.Machine (hiByte loByte word)

/-! ### A parser and the bytes it reads -/

/-- The parser reads the bytes `bs` as `v` and leaves whatever follows them. -/
def Parses {α : Type} (p : Parser α) (bs : List Byte) (v : α) : Prop := ∀ rest, p (bs ++ rest) = .ok (v, rest)

theorem Parses.parse1 {α β : Type} {p : Parser α} {bs : List Byte} {v : α} (h : Parses p bs v) (f : α → β) :
    Parses (parse1 p f) bs (f v) := by
  intro rest
  unfold Sys2Proof.parse1
  rw [h rest]

theorem Parses.parse2 {α β γ : Type} {p : Parser α} {q : Parser β} {bs cs : List Byte} {v : α} {w : β}
    (h : Parses p bs v) (h' : Parses q cs w) (f : α → β → γ) : Parses (parse2 p q f) (bs ++ cs) (f v w) := by
  intro rest
  unfold Sys2Proof.parse2
  rw [List.append_assoc, h (cs ++ rest)]
  exact h'.parse1 (f v) rest

theorem Parses.parse3 {α β γ δ : Type} {p : Parser α} {q : Parser β} {r : Parser γ} {bs cs ds : List Byte} {v : α} {w : β}
    {z : γ} (h : Parses p bs v) (h' : Parses q cs w) (h'' : Parses r ds z) (f : α → β → γ → δ) :
    Parses (parse3 p q r f) (bs ++ (cs ++ ds)) (f v w z) := by
  intro rest
  unfold Sys2Proof.parse3
  rw [List.append_assoc, h (cs ++ ds ++ rest)]
  exact h'.parse2 h'' (f v) rest

theorem Parses.checked {p : Parser Idx} {bs : List Byte} {i : Idx} {ok : Idx → Bool} (h : Parses p bs i)
    (hok : ok i = true) : Parses (parseChecked ok p) bs i := by
  intro rest
  unfold parseChecked
  rw [h rest]
  exact if_pos hok

theorem parses_byte (v : Byte) : Parses parseByte [v] v := fun _ => rfl

theorem word_hiByte_loByte (w : Word) : word (hiByte w) (loByte w) = w := by
  apply BitVec.eq_of_toNat_eq
  simp only [Machine.word_toNat, Machine.hiByte_eq, Machine.loByte_eq, BitVec.toNat_ofNat]
  have := w.isLt
  omega

theorem parses_word (w : Word) : Parses parseWord (wordBytes w) w := by
  intro rest
  have h : parseWord (wordBytes w ++ rest) = .ok (word (hiByte w) (loByte w), rest) := rfl
  rw [h, word_hiByte_loByte]

/-! ### The indexed postbyte (30_encoding.md R100) -/

theorem parseIdx_off5 {xb : Byte} (h : xb.getLsbD 5 = false) (rest : List Byte) :
    parseIdx (xb :: rest) = .ok (.off5 (.ofCode (xb.extractLsb' 6 2)) (xb.extractLsb' 0 5), rest) := if_pos h

theorem parseIdx_auto {xb : Byte} {r : AutoReg} (h : xb.getLsbD 5 = true)
    (hr : AutoReg.ofCode (xb.extractLsb' 6 2) = some r) (rest : List Byte) :
    parseIdx (xb :: rest) = .ok (.auto r (xb.getLsbD 4) (xb.extractLsb' 0 4), rest) := by
  rw [parseIdx, if_neg (by simp [h]), hr]

theorem off5_fields (c : BitVec 2) (n : BitVec 5) : let xb : Byte := c ++ 0#1 ++ n
    xb.getLsbD 5 = false ∧ xb.extractLsb' 6 2 = c ∧ xb.extractLsb' 0 5 = n := by
  revert c n; decide

theorem auto_fields (c : BitVec 2) (post : Bool) (n : BitVec 4) : let xb : Byte := c ++ 1#1 ++ BitVec.ofBool post ++ n
    xb.getLsbD 5 = true ∧ xb.extractLsb' 6 2 = c ∧ xb.getLsbD 4 = post ∧ xb.extractLsb' 0 4 = n := by
  revert c post n; decide

theorem BaseReg.ofCode_code (r : BaseReg) : BaseReg.ofCode r.code = r := by cases r <;> rfl

theorem AutoReg.ofCode_code (r : AutoReg) : AutoReg.ofCode r.code = some r := by cases r <;> rfl

/-- The sign bit and the low byte of a 9-bit offset make it up (30_encoding.md R102, R114). -/
theorem sign_append_low (n : BitVec 9) : n.extractLsb' 8 1 ++ n.extractLsb' 0 8 = n := by
  revert n; decide

/-- IDX1: bit 0 of the postbyte is the sign of the offset (30_encoding.md R102). -/
theorem parseIdx_off9 (r : BaseReg) (sign : BitVec 1) (ff : Byte) (rest : List Byte) :
    parseIdx ((7#3 ++ r.code ++ 0#2 ++ sign) :: ff :: rest) = .ok (.off9 r (sign ++ ff), rest) := by
  obtain rfl | rfl : sign = 0#1 ∨ sign = 1#1 := by revert sign; decide
  all_goals cases r <;> rfl

theorem parses_idx (i : Idx) : Parses parseIdx i.bytes i := by
  intro rest
  cases i with
  | off5 r n =>
    obtain ⟨hform, hreg, hoff⟩ := off5_fields r.code n
    have h := parseIdx_off5 hform rest
    rwa [hreg, hoff, BaseReg.ofCode_code] at h
  | auto r post n =>
    obtain ⟨hform, hreg, hpost, hstep⟩ := auto_fields r.code post n
    have h := parseIdx_auto hform (hreg ▸ AutoReg.ofCode_code r) rest
    rwa [hpost, hstep] at h
  | off9 r n =>
    have h := parseIdx_off9 r (n.extractLsb' 8 1) (n.extractLsb' 0 8) rest
    rwa [sign_append_low] at h
  | off16 r n =>
    cases r <;> exact (parses_word n).parse1 _ rest
  | ind16 r n =>
    cases r <;> exact (parses_word n).parse1 _ rest
  | acc r k => cases r <;> cases k <;> rfl
  | indD r => cases r <;> rfl

/-- A form of class (b) of 30_encoding.md R110. -/
theorem parses_direct {i : Idx} (h : i.isDirect = true) : Parses (parseChecked Idx.isDirect parseIdx) i.bytes i :=
  (parses_idx i).checked h

/-- A form of class (c) of 30_encoding.md R110. -/
theorem parses_short {i : Idx} (h : i.isShort = true) : Parses (parseChecked Idx.isShort parseIdx) i.bytes i :=
  (parses_idx i).checked h

/-! ### The compound formats -/

/-- CALL through a postbyte has a page byte exactly with the plain forms (30_encoding.md R117). -/
theorem parses_call_idx {i : Idx} (h : i.isDirect = true) (pg : Byte) :
    Parses parseCallIdx (i.bytes ++ [pg]) (.call (.idx i pg)) := by
  intro rest
  have hplain : i.indirect = false := by simpa [Idx.isDirect] using h
  unfold parseCallIdx
  rw [List.append_assoc, parses_idx i]
  dsimp only
  rw [hplain]
  rfl

theorem parses_call_ind {i : Idx} (h : i.indirect = true) : Parses parseCallIdx i.bytes (.call (.ind i)) := by
  intro rest
  unfold parseCallIdx
  rw [parses_idx i]
  dsimp only
  rw [if_pos h]

theorem transferPostbyte_fields (exchange : Bool) (src dst : BitVec 3) :
    let eb : Byte := BitVec.ofBool exchange ++ src ++ 0#1 ++ dst
    eb.getLsbD 7 = exchange ∧ eb.extractLsb' 4 3 = src ∧ eb.extractLsb' 0 3 = dst := by
  revert exchange src dst; decide

theorem XReg.ofCode_code (r : XReg) : XReg.ofCode r.code = r := by cases r <;> rfl

theorem parseTransfer_cons (eb : Byte) (rest : List Byte) : parseTransfer (eb :: rest) =
    .ok (if eb.getLsbD 7 then .exg (.ofCode (eb.extractLsb' 4 3)) (.ofCode (eb.extractLsb' 0 3))
      else .tfr (.ofCode (eb.extractLsb' 4 3)) (.ofCode (eb.extractLsb' 0 3)), rest) := rfl

/-- The transfer postbyte (30_encoding.md R113). -/
theorem parses_transfer (exchange : Bool) (src dst : XReg) :
    Parses parseTransfer [transferPostbyte exchange src dst] (if exchange then .exg src dst else .tfr src dst) := by
  intro rest
  obtain ⟨hkind, hsrc, hdst⟩ := transferPostbyte_fields exchange src.code dst.code
  have h := parseTransfer_cons (transferPostbyte exchange src dst) rest
  rwa [transferPostbyte, hkind, hsrc, hdst, XReg.ofCode_code, XReg.ofCode_code] at h

theorem loopPostbyte_fields (kind : BitVec 3) (sign : BitVec 1) (r : BitVec 3) (h : kind.toNat < 6) :
    let lb : Byte := kind ++ sign ++ 0#1 ++ r
    loopPostbyteUnassigned lb = false ∧ lb.extractLsb' 0 3 = r ∧ lb.extractLsb' 5 3 = kind ∧ lb.extractLsb' 4 1 = sign := by
  revert kind sign r; decide

theorem LoopReg.ofCode_code (r : LoopReg) : LoopReg.ofCode r.code = some r := by cases r <;> rfl

theorem parseLoop_assigned {lb : Byte} {r : LoopReg} (h : loopPostbyteUnassigned lb = false)
    (hr : LoopReg.ofCode (lb.extractLsb' 0 3) = some r) (rr : Byte) (rest : List Byte) :
    parseLoop (lb :: rr :: rest) = .ok (loopInstr (lb.extractLsb' 5 3) r (lb.extractLsb' 4 1 ++ rr), rest) := by
  rw [parseLoop, if_neg (by simp [h]), hr]

/-- The postbyte of a loop primitive (30_encoding.md R114). -/
theorem parses_loop {kind : BitVec 3} (h : kind.toNat < 6) (r : LoopReg) (off : BitVec 9) :
    Parses decode (loopBytes kind r off) (loopInstr kind r off) := by
  intro rest
  obtain ⟨hrow, hreg, hkind, hsign⟩ := loopPostbyte_fields kind (off.extractLsb' 8 1) r.code h
  have h := parseLoop_assigned hrow (hreg ▸ LoopReg.ofCode_code r) (off.extractLsb' 0 8) rest
  rwa [hkind, hsign, sign_append_low] at h

theorem parseLoop_unassigned {lb : Byte} (h : loopPostbyteUnassigned lb = true) (rr : Byte) (rest : List Byte) :
    parseLoop (lb :: rr :: rest) = .ok (.unassignedLoopPostbyte lb rr, rest) := if_pos h

/-- Row 3 of page 2 before REV: trap numbers (30_encoding.md R118). -/
theorem page2Row3_trap {lo : Nat} (h : lo < 10) : page2Row3 lo = parse0 (.trap (BitVec.ofNat 8 (0x30 + lo))) := by
  unfold page2Row3
  split
  case h_7 => rfl
  all_goals omega

/-- A trap number is a page-2 opcode of row 3 before REV, or of a row after it (30_encoding.md R118). -/
theorem parses_trap {tn : Byte} (h : trapNumberOk tn = true) : Parses decodePage2 [tn] (.trap tn) := by
  intro rest
  have hrow : 3 < tn.toNat / 16 ∨ tn.toNat / 16 = 3 ∧ tn.toNat % 16 < 10 := by
    simp only [trapNumberOk, Bool.or_eq_true, Bool.and_eq_true, decide_eq_true_eq] at h
    omega
  change decodePage2 (tn :: rest) = _
  unfold decodePage2
  dsimp only
  obtain hlate | ⟨hthree, hlo⟩ := hrow
  · split
    case h_5 => rfl
    all_goals omega
  · have htn : BitVec.ofNat 8 (0x30 + tn.toNat % 16) = tn := by
      apply BitVec.eq_of_toNat_eq
      rw [BitVec.toNat_ofNat]
      omega
    rw [hthree]
    change page2Row3 (tn.toNat % 16) rest = _
    rw [page2Row3_trap hlo, htn]
    rfl

/-! ### Every instruction -/

/-- A page-1 opcode whose row hands the bytes after it to the parser `p` (30_encoding.md R120). -/
theorem Parses.page1 {p : Parser Instr} {op : Byte} {bs : List Byte} {i : Instr} (h : Parses p bs i)
    (hop : ∀ cs, decode (op :: cs) = p cs := by intro; rfl) : Parses decode (op :: bs) i :=
  fun rest => (hop (bs ++ rest)).trans (h rest)

/-- A page-2 opcode whose row hands the bytes after it to the parser `p` (30_encoding.md R91, R121). -/
theorem Parses.page2 {p : Parser Instr} {op : Byte} {bs : List Byte} {i : Instr} (h : Parses p bs i)
    (hop : ∀ cs, decodePage2 (op :: cs) = p cs := by intro; rfl) : Parses decode (0x18 :: op :: bs) i :=
  .page1 (op := 0x18) (bs := op :: bs) fun rest => (hop (bs ++ rest)).trans (h rest)

theorem parses_movb {src : MovSrc8} {dst : ExtIdx} (hs : src.isShort = true) (hd : dst.isShort = true) :
    Parses decode (encode (.movb src dst)) (.movb src dst) := by
  cases dst with
  | ext h =>
    cases src with
    | imm v => exact .page2 ((parses_byte v).parse2 (parses_word h) _)
    | ext a => exact .page2 ((parses_word a).parse2 (parses_word h) _)
    | idx i => exact .page2 ((parses_short hs).parse2 (parses_word h) _)
  | idx j =>
    have hj := parses_short (i := j) hd
    cases src with
    | imm v => exact .page2 (hj.parse2 (parses_byte v) _)
    | ext a => exact .page2 (hj.parse2 (parses_word a) _)
    | idx i => exact .page2 ((parses_short hs).parse2 hj _)

theorem parses_movw {src : MovSrc16} {dst : ExtIdx} (hs : src.isShort = true) (hd : dst.isShort = true) :
    Parses decode (encode (.movw src dst)) (.movw src dst) := by
  cases dst with
  | ext h =>
    cases src with
    | imm v => exact .page2 ((parses_word v).parse2 (parses_word h) _)
    | ext a => exact .page2 ((parses_word a).parse2 (parses_word h) _)
    | idx i => exact .page2 ((parses_short hs).parse2 (parses_word h) _)
  | idx j =>
    have hj := parses_short (i := j) hd
    cases src with
    | imm v => exact .page2 (hj.parse2 (parses_word v) _)
    | ext a => exact .page2 (hj.parse2 (parses_word a) _)
    | idx i => exact .page2 ((parses_short hs).parse2 hj _)

/-- The decoder reads the bytes of a well-formed instruction as its core instruction. -/
theorem parses_encode {i : Instr} (hi : i.WellFormed) : Parses decode (encode i) (canon i) := by
  cases i
  case page2Prebyte => cases hi
  case unassignedLoopPostbyte lb rr => exact fun rest => parseLoop_unassigned hi rr rest
  case dbeq r off | dbne r off | tbeq r off | tbne r off | ibeq r off | ibne r off =>
    exact parses_loop (by decide) r off
  case suba src | cmpa src | sbca src | anda src | bita src | ldaa src | eora src | adca src | oraa src | adda src
    | subb src | cmpb src | sbcb src | andb src | bitb src | ldab src | eorb src | adcb src | orab src | addb src =>
    cases src with
    | imm ii => exact fun _ => rfl
    | dir dd => exact fun _ => rfl
    | ext a => exact .page1 ((parses_word a).parse1 _)
    | idx i => exact .page1 ((parses_idx i).parse1 _)
  case subd src | cpd src | cpy src | cpx src | cps src | addd src | ldd src | ldy src | ldx src | lds src =>
    cases src with
    | imm v => exact .page1 ((parses_word v).parse1 _)
    | dir dd => exact fun _ => rfl
    | ext a => exact .page1 ((parses_word a).parse1 _)
    | idx i => exact .page1 ((parses_idx i).parse1 _)
  case staa ad | stab ad | std ad | sty ad | stx ad | sts ad | jsr ad =>
    cases ad with
    | dir dd => exact fun _ => rfl
    | ext a => exact .page1 ((parses_word a).parse1 _)
    | idx i => exact .page1 ((parses_idx i).parse1 _)
  case jmp ad | neg ad | com ad | inc ad | dec ad | lsr ad | rol ad | ror ad | asr ad | asl ad | lsl ad | clr ad | tst ad =>
    cases ad with
    | ext a => exact .page1 ((parses_word a).parse1 _)
    | idx i => exact .page1 ((parses_idx i).parse1 _)
  case bset ad mm | bclr ad mm =>
    cases ad with
    | dir dd => exact .page1 (((parses_byte dd).parse1 MemOp.dir).parse2 (parses_byte mm) _)
    | ext a => exact .page1 (((parses_word a).parse1 MemOp.ext).parse2 (parses_byte mm) _)
    | idx i => exact .page1 (((parses_direct hi).parse1 MemOp.idx).parse2 (parses_byte mm) _)
  case brset ad mm rr | brclr ad mm rr =>
    cases ad with
    | dir dd => exact .page1 (((parses_byte dd).parse1 MemOp.dir).parse3 (parses_byte mm) (parses_byte rr) _)
    | ext a => exact .page1 (((parses_word a).parse1 MemOp.ext).parse3 (parses_byte mm) (parses_byte rr) _)
    | idx i => exact .page1 (((parses_direct hi).parse1 MemOp.idx).parse3 (parses_byte mm) (parses_byte rr) _)
  case leax i | leay i | leas i => exact .page1 ((parses_direct hi).parse1 _)
  case tbl i | etbl i => exact .page2 ((parses_short hi).parse1 _)
  case maxa i | mina i | emaxd i | emind i | maxm i | minm i | emaxm i | eminm i => exact .page2 ((parses_idx i).parse1 _)
  case call t =>
    cases t with
    | ext a pg => exact .page1 ((parses_word a).parse2 (parses_byte pg) _)
    | idx i pg => exact parses_call_idx hi pg
    | ind i => exact parses_call_ind hi
  case movb src dst =>
    obtain ⟨hs, hd⟩ := Bool.and_eq_true_iff.1 hi
    exact parses_movb hs hd
  case movw src dst =>
    obtain ⟨hs, hd⟩ := Bool.and_eq_true_iff.1 hi
    exact parses_movw hs hd
  case tfr src dst => exact parses_transfer false src dst
  case exg src dst => exact parses_transfer true src dst
  case sex src dst => exact parses_transfer false src.reg dst.reg
  case trap tn => exact parses_trap hi
  case emacs w | lbra w | lbrn w | lbhi w | lbls w | lbcc w | lbcs w | lbne w | lbeq w | lbvc w | lbvs w | lbpl w
    | lbmi w | lbge w | lblt w | lbgt w | lble w | lbhs w | lblo w =>
    exact .page2 ((parses_word w).parse1 _)
  all_goals exact fun _ => rfl

/-- Settles O1, from what the decoder reads of the bytes of each constructor. -/
theorem decodeOfEncode : Obligations.DecodeOfEncode := fun _ rest hi => parses_encode hi rest

end Sys2Proof
end

section
/-! PROOFS. What the decoder takes: for every row of the opcode maps, as many bytes as the encoder writes for its answer, which is
no second name (30_encoding.md R92, R126). -/

namespace Sys2Proof

/-! ### The bytes a parser takes -/

/-- Whatever the parser answers, the bytes it used and the bytes it left make up its input, and how many it used has `R`. -/
def Consumes {α : Type} (R : α → Nat → Prop) (p : Parser α) : Prop :=
  ∀ bs v rest, p bs = .ok (v, rest) → ∃ used, bs = used ++ rest ∧ R v used.length

theorem Consumes.parse0 {α : Type} {R : α → Nat → Prop} {v : α} (h : R v 0) : Consumes R (parse0 v) := by
  rintro bs _ _ ⟨⟩
  exact ⟨[], rfl, h⟩

theorem Consumes.parse1 {α β : Type} {Q : α → Nat → Prop} {R : β → Nat → Prop} {p : Parser α} {f : α → β}
    (hp : Consumes Q p) (hf : ∀ v n, Q v n → R (f v) n) : Consumes R (parse1 p f) := by
  intro bs w rest h
  unfold Sys2Proof.parse1 at h
  split at h
  · next v rest' hv =>
    cases h
    obtain ⟨used, hbs, hQ⟩ := hp _ _ _ hv
    exact ⟨used, hbs, hf v _ hQ⟩
  · cases h

theorem Consumes.parse2 {α β γ : Type} {Q : α → Nat → Prop} {Q' : β → Nat → Prop} {R : γ → Nat → Prop} {p : Parser α}
    {q : Parser β} {f : α → β → γ} (hp : Consumes Q p) (hq : Consumes Q' q)
    (hf : ∀ v w m n, Q v m → Q' w n → R (f v w) (m + n)) : Consumes R (parse2 p q f) := by
  intro bs w rest h
  unfold Sys2Proof.parse2 at h
  split at h
  · next v rest' hv =>
    obtain ⟨used, rfl, hQ⟩ := hp _ _ _ hv
    obtain ⟨used', rfl, hR⟩ := hq.parse1 (R := fun z n => R z (used.length + n)) (fun w n hw => hf v w used.length n hQ hw) _ _ _ h
    exact ⟨used ++ used', (List.append_assoc ..).symm, by rwa [List.length_append]⟩
  · cases h

theorem Consumes.parse3 {α β γ δ : Type} {Q : α → Nat → Prop} {Q' : β → Nat → Prop} {Q'' : γ → Nat → Prop}
    {R : δ → Nat → Prop} {p : Parser α} {q : Parser β} {r : Parser γ} {f : α → β → γ → δ} (hp : Consumes Q p)
    (hq : Consumes Q' q) (hr : Consumes Q'' r)
    (hf : ∀ v w z m n k, Q v m → Q' w n → Q'' z k → R (f v w z) (m + (n + k))) : Consumes R (parse3 p q r f) := by
  intro bs w rest h
  unfold Sys2Proof.parse3 at h
  split at h
  · next v rest' hv =>
    obtain ⟨used, rfl, hQ⟩ := hp _ _ _ hv
    obtain ⟨used', rfl, hR⟩ := hq.parse2 hr (R := fun z n => R z (used.length + n)) (fun w z n k hw hz => hf v w z used.length n k hQ hw hz) _ _ _ h
    exact ⟨used ++ used', (List.append_assoc ..).symm, by rwa [List.length_append]⟩
  · cases h

theorem Consumes.checked {Q : Idx → Nat → Prop} {p : Parser Idx} (hp : Consumes Q p) (ok : Idx → Bool) :
    Consumes Q (parseChecked ok p) := by
  intro bs v rest h
  unfold parseChecked at h
  split at h
  · next hv =>
    split at h
    · cases h; exact hp _ _ _ hv
    · cases h
  · cases h

/-- The parser takes `len v` bytes for the operand `v`. -/
abbrev Takes {α : Type} (len : α → Nat) (p : Parser α) : Prop := Consumes (fun v n => n = len v) p

theorem takes_byte : Takes (fun _ => 1) parseByte := by
  intro bs v rest h
  unfold parseByte at h
  split at h
  · cases h
  · cases h; exact ⟨[v], rfl, rfl⟩

theorem takes_word : Takes (fun _ => 2) parseWord := by
  intro bs v rest h
  unfold parseWord at h
  split at h
  · next hi lo _ => cases h; exact ⟨[hi, lo], rfl, rfl⟩
  · cases h

/-- The extension bytes of an indexed operand after its postbyte (30_encoding.md R100). -/
theorem takes_extension {α : Type} {p : Parser α} {n : Nat} {f : α → Idx} (hp : Takes (fun _ => n) p)
    (hf : ∀ v, (f v).bytes.length = n + 1) {cs rest : List Byte} {i : Idx} (h : parse1 p f cs = .ok (i, rest)) (xb : Byte) :
    ∃ used, xb :: cs = used ++ rest ∧ used.length = i.bytes.length := by
  obtain ⟨used, rfl, hlen⟩ :=
    hp.parse1 (R := fun i k => i.bytes.length = k + 1) (fun v k hk => hk ▸ hf v) _ _ _ h
  exact ⟨xb :: used, rfl, hlen.symm⟩

theorem takes_idx : Takes (fun i => i.bytes.length) parseIdx := by
  intro bs i rest h
  unfold parseIdx at h
  split at h
  · cases h
  · next xb cs =>
    split at h
    · cases h; exact ⟨[xb], rfl, rfl⟩
    · split at h
      · cases h; exact ⟨[xb], rfl, rfl⟩
      · dsimp only at h
        split at h
        case h_1 | h_2 => exact takes_extension takes_byte (fun _ => rfl) h xb
        case h_3 | h_4 => exact takes_extension takes_word (fun _ => rfl) h xb
        all_goals cases h; exact ⟨[xb], rfl, rfl⟩

/-! ### Instructions -/

/-- The parser answers no second name, and takes the bytes the encoder writes for its answer, all but the first `k`. -/
abbrev TakesInstr (k : Nat) (p : Parser Instr) : Prop :=
  Consumes (fun i n => canon i = i ∧ (encode i).length = n + k) p

theorem TakesInstr.fixed {k : Nat} {i : Instr} (h : canon i = i ∧ (encode i).length = 0 + k) : TakesInstr k (parse0 i) :=
  .parse0 h

theorem TakesInstr.byte {k : Nat} {f : Byte → Instr} (h : ∀ v, canon (f v) = f v ∧ (encode (f v)).length = 1 + k) :
    TakesInstr k (parse1 parseByte f) :=
  takes_byte.parse1 fun v _ hn => hn ▸ h v

theorem TakesInstr.word {k : Nat} {f : Word → Instr} (h : ∀ v, canon (f v) = f v ∧ (encode (f v)).length = 2 + k) :
    TakesInstr k (parse1 parseWord f) :=
  takes_word.parse1 fun v _ hn => hn ▸ h v

theorem TakesInstr.idx {k : Nat} {f : Idx → Instr}
    (h : ∀ i, canon (f i) = f i ∧ (encode (f i)).length = i.bytes.length + k) : TakesInstr k (parse1 parseIdx f) :=
  takes_idx.parse1 fun v _ hn => hn ▸ h v

theorem TakesInstr.checkedIdx {k : Nat} {ok : Idx → Bool} {f : Idx → Instr}
    (h : ∀ i, canon (f i) = f i ∧ (encode (f i)).length = i.bytes.length + k) :
    TakesInstr k (parse1 (parseChecked ok parseIdx) f) :=
  (takes_idx.checked ok).parse1 fun v _ hn => hn ▸ h v

/-- The opcode of a row, taken before the row's parser is asked. -/
theorem TakesInstr.opcode {k : Nat} {p : Parser Instr} (hp : TakesInstr (k + 1) p) {cs rest : List Byte} {i : Instr}
    (h : p cs = .ok (i, rest)) (op : Byte) :
    ∃ used, op :: cs = used ++ rest ∧ canon i = i ∧ (encode i).length = used.length + k := by
  obtain ⟨used, rfl, hcanon, hlen⟩ := hp _ _ _ h
  exact ⟨op :: used, rfl, hcanon, hlen.trans (by rw [List.length_cons]; omega)⟩

/-! ### The compound formats -/

theorem length_move (p op : Byte) (i : Idx) (l : List Byte) :
    ([p, op] ++ i.bytes ++ l).length = i.bytes.length + l.length + 2 := by
  simp only [List.length_append, List.length_cons, List.length_nil]
  omega

/-- A move whose first operand bytes are a postbyte (30_encoding.md R116). -/
theorem TakesInstr.move {α : Type} {len : α → Nat} {p : Parser α} {f : Idx → α → Instr} (hp : Takes len p)
    (hc : ∀ i v, canon (f i v) = f i v)
    (hf : ∀ i v, ∃ op l, encode (f i v) = [0x18, op] ++ i.bytes ++ l ∧ l.length = len v) :
    TakesInstr 2 (parse2 (parseChecked Idx.isShort parseIdx) p f) := by
  refine (takes_idx.checked _).parse2 hp fun i v m n hm hn => ⟨hc i v, ?_⟩
  obtain ⟨op, l, he, hl⟩ := hf i v
  rw [he, length_move, hl, hm, hn]

/-- The operand bytes of a bit instruction: those of the encoding but the opcode and the bytes after them. -/
theorem takes_mem {α : Type} {len : α → Nat} {p : Parser α} (hp : Takes len p) {f : α → MemOp}
    (hf : ∀ v, (f v).len = len v) : Takes MemOp.len (parse1 p f) :=
  hp.parse1 fun v _ hn => hn.trans (hf v).symm

theorem takes_directIdx : Takes MemOp.len (parse1 (parseChecked Idx.isDirect parseIdx) MemOp.idx) :=
  takes_mem (takes_idx.checked _) fun i => (Laws.idx_bytes_length i).symm

theorem takes_extMem : Takes MemOp.len (parse1 parseWord MemOp.ext) := takes_mem takes_word fun _ => rfl

theorem takes_dirMem : Takes MemOp.len (parse1 parseByte MemOp.dir) := takes_mem takes_byte fun _ => rfl

/-- BSET and BCLR: the operand, then the mask (30_encoding.md R115). -/
theorem TakesInstr.mask {p : Parser MemOp} (hp : Takes MemOp.len p) {f : MemOp → Byte → Instr}
    (hf : ∀ ad mm, canon (f ad mm) = f ad mm ∧ (encode (f ad mm)).length = ad.len + 2) :
    TakesInstr 1 (parse2 p parseByte f) :=
  hp.parse2 takes_byte fun ad mm _ _ hm hn => hm ▸ hn ▸ hf ad mm

/-- BRSET and BRCLR: the operand, the mask, the offset (30_encoding.md R115). -/
theorem TakesInstr.maskBranch {p : Parser MemOp} (hp : Takes MemOp.len p) {f : MemOp → Byte → Byte → Instr}
    (hf : ∀ ad mm rr, canon (f ad mm rr) = f ad mm rr ∧ (encode (f ad mm rr)).length = ad.len + 3) :
    TakesInstr 1 (parse3 p parseByte parseByte f) :=
  hp.parse3 takes_byte takes_byte fun ad mm rr _ _ _ hm hn hk => by subst hm hn hk; exact hf ad mm rr

theorem length_bset (ad : MemOp) (mm : Byte) : (encode (.bset ad mm)).length = ad.len + 2 := by
  cases ad with
  | idx i => exact (Machine.length_opcode_idx_mask _ mm i).trans (Nat.add_comm ..)
  | _ => rfl

theorem length_bclr (ad : MemOp) (mm : Byte) : (encode (.bclr ad mm)).length = ad.len + 2 := by
  cases ad with
  | idx i => exact (Machine.length_opcode_idx_mask _ mm i).trans (Nat.add_comm ..)
  | _ => rfl

theorem length_opcode_idx_mask_branch (op mm rr : Byte) (i : Idx) : (op :: i.bytes ++ [mm, rr]).length = i.len + 3 := by
  rw [List.length_append, List.length_cons, Laws.idx_bytes_length]
  rfl

theorem length_brset (ad : MemOp) (mm rr : Byte) : (encode (.brset ad mm rr)).length = ad.len + 3 := by
  cases ad with
  | idx i => exact length_opcode_idx_mask_branch _ mm rr i
  | _ => rfl

theorem length_brclr (ad : MemOp) (mm rr : Byte) : (encode (.brclr ad mm rr)).length = ad.len + 3 := by
  cases ad with
  | idx i => exact length_opcode_idx_mask_branch _ mm rr i
  | _ => rfl

/-- CALL through a postbyte (30_encoding.md R117). -/
theorem takes_parseCallIdx : TakesInstr 1 parseCallIdx := by
  intro bs v rest h
  unfold parseCallIdx at h
  split at h
  · next i rest' hi =>
    obtain ⟨used, rfl, hlen⟩ := takes_idx _ _ _ hi
    dsimp only at hlen
    split at h
    · cases h
      exact ⟨used, rfl, rfl, congrArg (· + 1) hlen.symm⟩
    · have hpage : TakesInstr (i.bytes.length + 1) (parse1 parseByte fun pg => .call (.idx i pg)) :=
        .byte fun pg => ⟨rfl, by simp [encode]; omega⟩
      obtain ⟨used', rfl, hcanon, hlen'⟩ := hpage _ _ _ h
      exact ⟨used ++ used', (List.append_assoc ..).symm, hcanon, by rw [hlen', List.length_append, hlen]; omega⟩
  · cases h

theorem takes_loopInstr (kind : BitVec 3) (r : LoopReg) (off : BitVec 9) :
    canon (loopInstr kind r off) = loopInstr kind r off ∧ (encode (loopInstr kind r off)).length = 3 := by
  unfold loopInstr
  split <;> exact ⟨rfl, rfl⟩

theorem takes_parseLoop : TakesInstr 1 parseLoop := by
  intro bs v rest h
  unfold parseLoop at h
  split at h
  · next lb rr _ =>
    split at h
    · cases h; exact ⟨[lb, rr], rfl, rfl, rfl⟩
    · split at h
      · cases h; exact ⟨[lb, rr], rfl, takes_loopInstr _ _ _⟩
      · cases h
  · cases h

theorem takes_parseTransfer : TakesInstr 1 parseTransfer :=
  .byte fun eb => by dsimp only; split <;> exact ⟨rfl, rfl⟩

/-! ### Page 2 (30_encoding.md R121) -/

theorem page2Row0_takes (lo : Nat) : TakesInstr 2 (page2Row0 lo) := by
  unfold page2Row0
  split
  case h_1 | h_2 | h_6 | h_10 | h_14 => exact .move takes_word (fun _ _ => rfl) fun _ _ => ⟨_, _, rfl, rfl⟩
  case h_9 => exact .move takes_byte (fun _ _ => rfl) fun _ _ => ⟨_, _, rfl, rfl⟩
  case h_3 | h_11 => exact .move (takes_idx.checked _) (fun _ _ => rfl) fun _ _ => ⟨_, _, rfl, rfl⟩
  case h_4 | h_5 | h_13 =>
    exact takes_word.parse2 takes_word fun _ _ _ _ hm hn => by subst hm hn; exact ⟨rfl, rfl⟩
  case h_12 => exact takes_byte.parse2 takes_word fun _ _ _ _ hm hn => by subst hm hn; exact ⟨rfl, rfl⟩
  all_goals exact .fixed ⟨rfl, rfl⟩

theorem page2Row1_takes (lo : Nat) : TakesInstr 2 (page2Row1 lo) := by
  unfold page2Row1
  split
  case h_3 => exact .word fun _ => ⟨rfl, rfl⟩
  case h_9 | h_10 | h_11 | h_12 | h_13 | h_14 | h_15 | h_16 => exact .idx fun _ => ⟨rfl, rfl⟩
  all_goals exact .fixed ⟨rfl, rfl⟩

theorem page2Row2_takes (lo : Nat) : TakesInstr 2 (page2Row2 lo) := by
  unfold page2Row2
  split <;> exact .word fun _ => ⟨rfl, rfl⟩

theorem page2Row3_takes (lo : Nat) : TakesInstr 2 (page2Row3 lo) := by
  unfold page2Row3
  split
  case h_4 | h_6 => exact .checkedIdx fun _ => ⟨rfl, rfl⟩
  all_goals exact .fixed ⟨rfl, rfl⟩

theorem decodePage2_takes : TakesInstr 1 decodePage2 := by
  intro bs i rest h
  unfold decodePage2 at h
  split at h
  · cases h
  · next op cs =>
    dsimp only at h
    split at h
    · exact (page2Row0_takes _).opcode h op
    · exact (page2Row1_takes _).opcode h op
    · exact (page2Row2_takes _).opcode h op
    · exact (page2Row3_takes _).opcode h op
    · cases h; exact ⟨[op], rfl, rfl, rfl⟩

/-! ### Page 1 (30_encoding.md R120) -/

theorem page1Row0_takes (lo : Nat) : TakesInstr 1 (page1Row0 lo) := by
  unfold page1Row0
  split
  case h_5 => exact takes_parseLoop
  case h_6 => exact .idx fun _ => ⟨rfl, rfl⟩
  case h_7 => exact .word fun _ => ⟨rfl, rfl⟩
  case h_8 => exact .byte fun _ => ⟨rfl, rfl⟩
  case h_13 => exact .mask takes_directIdx fun _ _ => ⟨rfl, length_bset _ _⟩
  case h_14 => exact .mask takes_directIdx fun _ _ => ⟨rfl, length_bclr _ _⟩
  case h_15 => exact .maskBranch takes_directIdx fun _ _ _ => ⟨rfl, length_brset _ _ _⟩
  case h_16 => exact .maskBranch takes_directIdx fun _ _ _ => ⟨rfl, length_brclr _ _ _⟩
  all_goals exact .fixed ⟨rfl, rfl⟩

theorem page1Row1_takes (lo : Nat) : TakesInstr 1 (page1Row1 lo) := by
  unfold page1Row1
  split
  case h_1 | h_5 | h_8 => exact .byte fun _ => ⟨rfl, rfl⟩
  case h_6 => exact .idx fun _ => ⟨rfl, rfl⟩
  case h_7 => exact .word fun _ => ⟨rfl, rfl⟩
  case h_9 => exact decodePage2_takes
  case h_10 | h_11 | h_12 => exact .checkedIdx fun _ => ⟨rfl, rfl⟩
  case h_13 => exact .mask takes_extMem fun _ _ => ⟨rfl, length_bset _ _⟩
  case h_14 => exact .mask takes_extMem fun _ _ => ⟨rfl, length_bclr _ _⟩
  case h_15 => exact .maskBranch takes_extMem fun _ _ _ => ⟨rfl, length_brset _ _ _⟩
  case h_16 => exact .maskBranch takes_extMem fun _ _ _ => ⟨rfl, length_brclr _ _ _⟩
  all_goals exact .fixed ⟨rfl, rfl⟩

theorem page1Row2_takes (lo : Nat) : TakesInstr 1 (page1Row2 lo) := by
  unfold page1Row2
  split <;> exact .byte fun _ => ⟨rfl, rfl⟩

theorem page1Row3_takes (lo : Nat) : TakesInstr 1 (page1Row3 lo) := by
  unfold page1Row3
  split <;> exact .fixed ⟨rfl, rfl⟩

theorem page1Row4_takes (lo : Nat) : TakesInstr 1 (page1Row4 lo) := by
  unfold page1Row4
  split
  case h_11 => exact takes_word.parse2 takes_byte fun _ _ _ _ hm hn => by subst hm hn; exact ⟨rfl, rfl⟩
  case h_12 => exact takes_parseCallIdx
  case h_13 => exact .mask takes_dirMem fun _ _ => ⟨rfl, length_bset _ _⟩
  case h_14 => exact .mask takes_dirMem fun _ _ => ⟨rfl, length_bclr _ _⟩
  case h_15 => exact .maskBranch takes_dirMem fun _ _ _ => ⟨rfl, length_brset _ _ _⟩
  case h_16 => exact .maskBranch takes_dirMem fun _ _ _ => ⟨rfl, length_brclr _ _ _⟩
  all_goals exact .fixed ⟨rfl, rfl⟩

theorem page1Row5_takes (lo : Nat) : TakesInstr 1 (page1Row5 lo) := by
  unfold page1Row5
  split
  case h_11 | h_12 | h_13 | h_14 | h_15 | h_16 => exact .byte fun _ => ⟨rfl, rfl⟩
  all_goals exact .fixed ⟨rfl, rfl⟩

theorem page1Row6_takes (lo : Nat) : TakesInstr 1 (page1Row6 lo) := by
  unfold page1Row6
  split <;> exact .idx fun _ => ⟨rfl, rfl⟩

theorem page1Row7_takes (lo : Nat) : TakesInstr 1 (page1Row7 lo) := by
  unfold page1Row7
  split <;> exact .word fun _ => ⟨rfl, rfl⟩

theorem page1Row8_takes (lo : Nat) : TakesInstr 1 (page1Row8 lo) := by
  unfold page1Row8
  split
  case h_8 => exact .fixed ⟨rfl, rfl⟩
  case h_4 | h_13 | h_14 | h_15 | h_16 => exact .word fun _ => ⟨rfl, rfl⟩
  all_goals exact .byte fun _ => ⟨rfl, rfl⟩

theorem page1Row9_takes (lo : Nat) : TakesInstr 1 (page1Row9 lo) := by
  unfold page1Row9
  split
  case h_8 => exact .fixed ⟨rfl, rfl⟩
  all_goals exact .byte fun _ => ⟨rfl, rfl⟩

theorem page1RowA_takes (lo : Nat) : TakesInstr 1 (page1RowA lo) := by
  unfold page1RowA
  split
  case h_8 => exact .fixed ⟨rfl, rfl⟩
  all_goals exact .idx fun _ => ⟨rfl, rfl⟩

theorem page1RowB_takes (lo : Nat) : TakesInstr 1 (page1RowB lo) := by
  unfold page1RowB
  split
  case h_8 => exact takes_parseTransfer
  all_goals exact .word fun _ => ⟨rfl, rfl⟩

theorem page1RowC_takes (lo : Nat) : TakesInstr 1 (page1RowC lo) := by
  unfold page1RowC
  split
  case h_8 => exact .fixed ⟨rfl, rfl⟩
  case h_4 | h_13 | h_14 | h_15 | h_16 => exact .word fun _ => ⟨rfl, rfl⟩
  all_goals exact .byte fun _ => ⟨rfl, rfl⟩

theorem page1RowD_takes (lo : Nat) : TakesInstr 1 (page1RowD lo) := by
  unfold page1RowD
  split
  case h_8 => exact .fixed ⟨rfl, rfl⟩
  all_goals exact .byte fun _ => ⟨rfl, rfl⟩

theorem page1RowE_takes (lo : Nat) : TakesInstr 1 (page1RowE lo) := by
  unfold page1RowE
  split <;> exact .idx fun _ => ⟨rfl, rfl⟩

theorem page1RowF_takes (lo : Nat) : TakesInstr 1 (page1RowF lo) := by
  unfold page1RowF
  split <;> exact .word fun _ => ⟨rfl, rfl⟩

theorem decode_takes : TakesInstr 0 decode := by
  intro bs i rest h
  unfold decode at h
  split at h
  · cases h
  · next op cs =>
    dsimp only at h
    split at h
    · exact (page1Row0_takes _).opcode h op
    · exact (page1Row1_takes _).opcode h op
    · exact (page1Row2_takes _).opcode h op
    · exact (page1Row3_takes _).opcode h op
    · exact (page1Row4_takes _).opcode h op
    · exact (page1Row5_takes _).opcode h op
    · exact (page1Row6_takes _).opcode h op
    · exact (page1Row7_takes _).opcode h op
    · exact (page1Row8_takes _).opcode h op
    · exact (page1Row9_takes _).opcode h op
    · exact (page1RowA_takes _).opcode h op
    · exact (page1RowB_takes _).opcode h op
    · exact (page1RowC_takes _).opcode h op
    · exact (page1RowD_takes _).opcode h op
    · exact (page1RowE_takes _).opcode h op
    · exact (page1RowF_takes _).opcode h op

/-! ### One to six bytes (30_encoding.md R92) -/

open Laws in
theorem encode_fits {i : Instr} (hi : i.WellFormed) : fits (encode i) := by
  cases i
  case bset ad mm => exact EncodedLength.bset ad mm hi
  case bclr ad mm => exact EncodedLength.bclr ad mm hi
  case brset ad mm rr => exact EncodedLength.brset ad mm rr hi
  case brclr ad mm rr => exact EncodedLength.brclr ad mm rr hi
  case call t => exact EncodedLength.call t hi
  case movb src dst => exact EncodedLength.movb src dst hi
  case movw src dst => exact EncodedLength.movw src dst hi
  case leax i | leay i | leas i => exact fits_idx _ i
  case maxa i | mina i | emaxd i | emind i | maxm i | minm i | emaxm i | eminm i | tbl i | etbl i =>
    exact fits_page2 _ _ i
  case jmp ad | neg ad | com ad | inc ad | dec ad | lsr ad | rol ad | ror ad | asr ad | asl ad | lsl ad | clr ad | tst ad =>
    cases ad with
    | ext a => exact fits_fixed rfl
    | idx i => exact fits_idx _ i
  case staa ad | stab ad | std ad | sty ad | stx ad | sts ad | jsr ad =>
    cases ad with
    | idx i => exact fits_idx _ i
    | _ => exact fits_fixed rfl
  case suba src | cmpa src | sbca src | anda src | bita src | ldaa src | eora src | adca src | oraa src | adda src
    | subb src | cmpb src | sbcb src | andb src | bitb src | ldab src | eorb src | adcb src | orab src | addb src
    | subd src | cpd src | cpy src | cpx src | cps src | addd src | ldd src | ldy src | ldx src | lds src =>
    cases src with
    | idx i => exact fits_idx _ i
    | _ => exact fits_fixed rfl
  all_goals exact fits_fixed rfl

/-- Settles O2, from what the decoder takes and what it answers. -/
theorem decodedIsWellFormed : Obligations.DecodedIsWellFormed := by
  intro bs rest i h
  have hwf : i.WellFormed := decode_wellFormed _ _ _ h
  obtain ⟨used, rfl, hcanon, hlen⟩ := decode_takes _ _ _ h
  obtain ⟨hmin, hmax⟩ := encode_fits hwf
  refine ⟨hwf, hcanon, ?_, ?_, hmin, hmax⟩
  · rw [hlen]; exact (List.drop_left ..).symm
  · rw [hlen, List.length_append]; rfl

end Sys2Proof
end

section
/-! PROOFS. Words written out from the opcode maps, what the decoder refuses (30_encoding.md R110, R114, R123), the prebyte
(R91), and the second names (R126). -/

namespace Sys2Proof

open Sys2Proof.Machine

/-! ### Words written out -/

/-- Settles O3: the words are the encodings of the instructions they stand for. -/
theorem writtenWordsDecode : Obligations.WrittenWordsDecode :=
  ⟨parses_encode (i := .ldaa (.imm 0x80)) rfl [], parses_encode (i := .ldd (.idx (.auto .sp true 1))) rfl [],
    parses_encode (i := .dbne .x 0x1FD) rfl [], parses_encode (i := .exg .d .x) rfl [],
    parses_encode (i := .movb (.ext 0x1000) (.ext 0x2000)) rfl [], parses_encode (i := .lbne 0xFFFC) rfl [],
    parses_encode (i := .jsr (.idx (.off16 .pc 0x1234))) rfl []⟩

/-! ### Indexed forms an instruction does not accept -/

/-- The parser refuses an indexed form in the bytes `bs`, whatever follows them. -/
def Refuses {α : Type} (p : Parser α) (bs : List Byte) : Prop :=
  ∀ rest, p (bs ++ rest) = .error .indexedFormNotAccepted

theorem Refuses.parse1 {α β : Type} {p : Parser α} {bs : List Byte} (h : Refuses p bs) (f : α → β) :
    Refuses (parse1 p f) bs := by
  intro rest
  unfold Sys2Proof.parse1
  rw [h rest]

theorem Refuses.parse2 {α β γ : Type} {p : Parser α} {bs : List Byte} (h : Refuses p bs) (q : Parser β) (f : α → β → γ) :
    Refuses (parse2 p q f) bs := by
  intro rest
  unfold Sys2Proof.parse2
  rw [h rest]

theorem Refuses.parse3 {α β γ δ : Type} {p : Parser α} {bs : List Byte} (h : Refuses p bs) (q : Parser β) (r : Parser γ)
    (f : α → β → γ → δ) : Refuses (parse3 p q r f) bs := by
  intro rest
  unfold Sys2Proof.parse3
  rw [h rest]

/-- The second of two fields is refused. -/
theorem Refuses.second {α β γ : Type} {p : Parser α} {q : Parser β} {bs cs : List Byte} {v : α} (hp : Parses p bs v)
    (h : Refuses q cs) (f : α → β → γ) (rest : List Byte) :
    Sys2Proof.parse2 p q f (bs ++ (cs ++ rest)) = .error .indexedFormNotAccepted := by
  unfold Sys2Proof.parse2
  rw [hp (cs ++ rest)]
  exact h.parse1 (f v) rest

theorem refuses_checked {ok : Idx → Bool} {i : Idx} (h : ok i = false) : Refuses (parseChecked ok parseIdx) i.bytes := by
  intro rest
  unfold parseChecked
  rw [parses_idx i rest]
  dsimp only
  rw [if_neg (by simp [h])]

/-- An indirect form where class (b) of 30_encoding.md R110 is accepted. -/
theorem decode_indirect {i : Idx} (h : i.isDirect = false) (rest : List Byte) :
    ∀ op ∈ [0x19, 0x1A, 0x1B, 0x0C, 0x0D, 0x0E, 0x0F],
      decode (op :: (i.bytes ++ rest)) = .error .indexedFormNotAccepted := by
  have hr := refuses_checked h
  simp only [List.forall_mem_cons]
  exact ⟨hr.parse1 _ rest, hr.parse1 _ rest, hr.parse1 _ rest, (hr.parse1 _).parse2 _ _ rest,
    (hr.parse1 _).parse2 _ _ rest, (hr.parse1 _).parse3 _ _ _ rest, (hr.parse1 _).parse3 _ _ _ rest, by simp⟩

/-- A long form where class (c) of 30_encoding.md R110 is accepted. -/
theorem decode_long {i : Idx} (h : i.isShort = false) (rest : List Byte) :
    ∀ op ∈ [0x00, 0x01, 0x02, 0x05, 0x08, 0x09, 0x0A, 0x0D, 0x3D, 0x3F],
      decode (0x18 :: op :: (i.bytes ++ rest)) = .error .indexedFormNotAccepted := by
  have hr := refuses_checked h
  simp only [List.forall_mem_cons]
  exact ⟨hr.parse2 _ _ rest, hr.parse2 _ _ rest, hr.parse2 _ _ rest, hr.parse2 _ _ rest, hr.parse2 _ _ rest,
    hr.parse2 _ _ rest, hr.parse2 _ _ rest, hr.parse2 _ _ rest, hr.parse1 _ rest, hr.parse1 _ rest, by simp⟩

/-- A long form as the second operand of a move. -/
theorem decode_long_second {i j : Idx} (h : i.isShort = false) (hj : j.isShort = true) (rest : List Byte) :
    ∀ op ∈ [0x02, 0x0A], decode (0x18 :: op :: (j.bytes ++ (i.bytes ++ rest))) = .error .indexedFormNotAccepted := by
  have hr := refuses_checked h
  simp only [List.forall_mem_cons]
  exact ⟨hr.second (parses_short hj) _ rest, hr.second (parses_short hj) _ rest, by simp⟩

/-- The forms that are not short (30_encoding.md R110 (c)). -/
theorem isShort_iff (i : Idx) : i.isShort = true ↔
    (∀ r n, i ≠ .ind16 r n) ∧ (∀ r, i ≠ .indD r) ∧ (∀ r n, i ≠ .off9 r n) ∧ ∀ r n, i ≠ .off16 r n := by
  cases i <;> simp [Idx.isShort]

/-! ### Loop postbytes (30_encoding.md R114) -/

/-- The register codes 010 and 011 name no counter. -/
theorem decode_loop_register {lb : Byte} (hlb : lb.toNat < 0xC0) (h : lb.toNat % 8 = 2 ∨ lb.toNat % 8 = 3) (rr : Byte)
    (rest : List Byte) : decode (0x04 :: lb :: rr :: rest) = .error .loopRegisterUnassigned := by
  have hrow : loopPostbyteUnassigned lb = false := decide_eq_false (by omega)
  have hcode : (lb.extractLsb' 0 3).toNat = lb.toNat % 8 := by simp
  have hnone : LoopReg.ofCode (lb.extractLsb' 0 3) = none := by
    unfold LoopReg.ofCode
    rw [hcode]
    obtain h | h := h <;> rw [h] <;> rfl
  change parseLoop (lb :: rr :: rest) = _
  rw [parseLoop, if_neg (by simp [hrow]), hnone]

/-! ### The prebyte (30_encoding.md R91) -/

/-- The prebyte gives the page-2 instruction `i` a meaning, and it completes. -/
def Page2Completes (i : Instr) : Prop := ∀ s, ∃ t, page2Meaning i s = some (.next t)

theorem execRev_completes (s : State) : ∃ t, execRev s = .next t := by
  unfold execRev
  dsimp only
  split
  · exact ⟨_, rfl⟩
  · split <;> exact ⟨_, rfl⟩

theorem execRevw_completes (s : State) : ∃ t, execRevw s = .next t := by
  unfold execRevw
  dsimp only
  split
  · exact ⟨_, rfl⟩
  · split
    · split <;> exact ⟨_, rfl⟩
    · exact ⟨_, rfl⟩

theorem execStop_completes (s : State) : ∃ t, execStop s = .next t := by
  unfold execStop
  split <;> exact ⟨_, rfl⟩

theorem page2Row0_completes (lo : Nat) : Yields Page2Completes (page2Row0 lo) := by
  unfold page2Row0
  split
  case h_7 | h_8 | h_15 | h_16 => exact .parse0 fun _ => ⟨_, rfl⟩
  all_goals exact (Yields.any _).parse2 (.any _) fun _ _ _ _ _ => ⟨_, rfl⟩

theorem page2Row1_completes (lo : Nat) : Yields Page2Completes (page2Row1 lo) := by
  unfold page2Row1
  split
  case h_3 | h_9 | h_10 | h_11 | h_12 | h_13 | h_14 | h_15 | h_16 => exact (Yields.any _).parse1 fun _ _ _ => ⟨_, rfl⟩
  all_goals exact .parse0 fun _ => ⟨_, rfl⟩

theorem page2Row2_completes (lo : Nat) : Yields Page2Completes (page2Row2 lo) := by
  unfold page2Row2
  split <;> exact (Yields.any _).parse1 fun _ _ _ => ⟨_, rfl⟩

theorem page2Row3_completes (lo : Nat) : Yields Page2Completes (page2Row3 lo) := by
  unfold page2Row3
  split
  case h_1 => exact .parse0 fun s => (execRev_completes s).imp fun _ h => congrArg some h
  case h_2 => exact .parse0 fun s => (execRevw_completes s).imp fun _ h => congrArg some h
  case h_5 => exact .parse0 fun s => (execStop_completes s).imp fun _ h => congrArg some h
  case h_4 | h_6 => exact (Yields.any _).parse1 fun _ _ _ => ⟨_, rfl⟩
  all_goals exact .parse0 fun _ => ⟨_, rfl⟩

theorem decodePage2_completes : Yields Page2Completes decodePage2 := by
  intro bs i rest h
  unfold decodePage2 at h
  split at h
  · cases h
  · dsimp only at h
    split at h
    · exact page2Row0_completes _ _ _ _ h
    · exact page2Row1_completes _ _ _ _ h
    · exact page2Row2_completes _ _ _ _ h
    · exact page2Row3_completes _ _ _ _ h
    · cases h; exact fun _ => ⟨_, rfl⟩

theorem exec_page2Prebyte {s : State} {i : Instr} {rest : List Byte}
    (h : decodePage2 (fetchBytes s).tail = .ok (i, rest)) :
    exec .page2Prebyte s = exec i s ∧ ∃ t, exec .page2Prebyte s = .next t := by
  obtain ⟨t, ht⟩ := decodePage2_completes _ _ _ h s
  obtain ⟨-, hexec⟩ := page2Meaning_eq_exec ht
  have hpre : exec .page2Prebyte s = .next t := by
    change execPage2Prebyte s = _
    unfold execPage2Prebyte
    rw [h]
    dsimp only
    rw [ht]
    rfl
  exact ⟨hpre.trans hexec.symm, t, hpre⟩

theorem step_undecodable {s : State} {e : DecodeError} (h : s.Quiet) (hd : decode (fetchBytes s) = .error e) :
    step s = .refused (.undecodable e) := by
  have hd' : decode (fetchBytes s.popInput) = .error e := hd
  rw [step_of_quiet h, executeNext, hd']

/-- Settles O6, clause by clause: unassigned loop postbytes, register codes, indexed forms, the step, the prebyte. -/
theorem rowsThatAreNoInstruction : Obligations.RowsThatAreNoInstruction := by
  refine ⟨fun lb rr rest s h => ⟨parseLoop_unassigned (decide_eq_true h) rr rest, rfl⟩,
    fun lb rr rest hlb h => decode_loop_register hlb h rr rest, ?forms, fun s e hq hd => step_undecodable hq hd,
    fun s i rest h => exec_page2Prebyte h⟩
  case forms =>
    intro i rest indirect long
    have hindirect : indirect → i.isDirect = false := by
      rintro (⟨r, n, rfl⟩ | ⟨r, rfl⟩) <;> rfl
    have hlong : long → i.isShort = false := by
      rintro ((⟨r, n, rfl⟩ | ⟨r, rfl⟩) | ⟨r, n, rfl⟩ | ⟨r, n, rfl⟩) <;> rfl
    exact ⟨fun h => decode_indirect (hindirect h) rest, fun h => decode_long (hlong h) rest,
      fun h j h1 h2 h3 h4 => decode_long_second (hlong h) ((isShort_iff j).2 ⟨h1, h2, h3, h4⟩) rest⟩

/-! ### Second names -/

theorem loByte_zext8 (v : Byte) : loByte (zext8 v) = v := by
  rw [zext8_eq, loByte_ofNat, BitVec.ofNat_toNat, BitVec.setWidth_eq]

theorem ofByte_toByte (c : Ccr) : Ccr.ofByte c.toByte = c := by
  obtain ⟨s, x, h, i, n, z, v, c⟩ := c
  cases s <;> cases x <;> cases h <;> cases i <;> cases n <;> cases z <;> cases v <;> cases c <;> rfl

/-- `write_ccr` of the CCR with some bits cleared (42_logic_bit_shift.md R271). -/
theorem write_and (c : Ccr) (ii : Byte) : c.write (c.toByte &&& ii) =
    { s := c.s && ii.getLsbD 7, x := c.x && ii.getLsbD 6, h := c.h && ii.getLsbD 5, i := c.i && ii.getLsbD 4,
      n := c.n && ii.getLsbD 3, z := c.z && ii.getLsbD 2, v := c.v && ii.getLsbD 1, c := c.c && ii.getLsbD 0 } := by
  obtain ⟨hs, hx, hh, hi, hn, hz, hv, hc⟩ := Ccr.mk.inj (ofByte_toByte c)
  simp only [Ccr.write, Ccr.ofByte, BitVec.getLsbD_and, hs, hx, hh, hi, hn, hz, hv, hc, ← Bool.and_assoc, Bool.and_self]

/-- `write_ccr` of the CCR with some bits set; X cannot be (42_logic_bit_shift.md R272, 10_state.md R27). -/
theorem write_or (c : Ccr) (ii : Byte) : c.write (c.toByte ||| ii) =
    { s := c.s || ii.getLsbD 7, x := c.x, h := c.h || ii.getLsbD 5, i := c.i || ii.getLsbD 4,
      n := c.n || ii.getLsbD 3, z := c.z || ii.getLsbD 2, v := c.v || ii.getLsbD 1, c := c.c || ii.getLsbD 0 } := by
  obtain ⟨hs, hx, hh, hi, hn, hz, hv, hc⟩ := Ccr.mk.inj (ofByte_toByte c)
  have hkept : (c.x || c.x && ii.getLsbD 6) = c.x := by cases c.x <;> rfl
  simp only [Ccr.write, Ccr.ofByte, BitVec.getLsbD_or, hs, hx, hh, hi, hn, hz, hv, hc, Bool.and_or_distrib_left,
    Bool.and_self, hkept]

theorem exec_andcc (ii : Byte) (s : State) : exec (.andcc ii) s =
    inherent 2 (fun t => { t with ccr := t.ccr.write (t.ccr.toByte &&& ii) }.delayIfCleared t) s := rfl

theorem exec_orcc (ii : Byte) (s : State) : exec (.orcc ii) s =
    inherent 2 (fun t => { t with ccr := t.ccr.write (t.ccr.toByte ||| ii) }) s := rfl

theorem clearing_eq_andcc (s : State) : exec .clc s = exec (.andcc 0xFE) s ∧ exec .cli s = exec (.andcc 0xEF) s ∧
    exec .clv s = exec (.andcc 0xFD) s := by
  simp only [exec_andcc, write_and]
  simp [exec, execClc, execCli, execClv, inherent]

theorem setting_eq_orcc (s : State) : exec .sec s = exec (.orcc 0x01) s ∧ exec .sei s = exec (.orcc 0x10) s ∧
    exec .sev s = exec (.orcc 0x02) s := by
  simp only [exec_orcc, write_or]
  simp [exec, execSec, execSei, execSev, inherent]

theorem des_eq_leas (s : State) : exec .des s = exec (.leas (.off5 .sp (-1))) s := by
  have hminus : sext5 (-1) = -1 := by decide
  have hsp : s.sp + sext5 (-1) = s.sp - 1 := by rw [hminus, BitVec.sub_eq_add_neg]
  have hleas : exec (.leas (.off5 .sp (-1))) s = .next { s with sp := s.sp + sext5 (-1), pc := s.npc 2 } := rfl
  rw [hleas, hsp]
  rfl

theorem tap_eq_tfr (s : State) : exec .tap s = exec (.tfr .a .ccr) s := by
  have htfr : exec (.tfr .a .ccr) s = inherent 2 (fun t => (t.writeCcr (loByte (zext8 t.a))).armDelay t) s := rfl
  rw [htfr]
  simp only [loByte_zext8]
  rfl

theorem tpa_eq_tfr (s : State) : exec .tpa s = exec (.tfr .ccr .a) s := by
  have htfr : exec (.tfr .ccr .a) s =
      inherent 2 (fun t => { t with a := loByte (zext8 t.ccr.toByte) }.armDelay t) s := rfl
  rw [htfr]
  simp only [loByte_zext8]
  rfl

/-- Settles O4: the second names whose meaning is written otherwise than their core instruction's, and the rest. -/
theorem secondNameDoesWhatItsCoreDoes : Obligations.SecondNameDoesWhatItsCoreDoes := by
  intro i s
  obtain ⟨hclc, hcli, hclv⟩ := clearing_eq_andcc s
  obtain ⟨hsec, hsei, hsev⟩ := setting_eq_orcc s
  cases i
  case clc => exact hclc
  case cli => exact hcli
  case clv => exact hclv
  case sec => exact hsec
  case sei => exact hsei
  case sev => exact hsev
  case des => exact des_eq_leas s
  case tap => exact tap_eq_tfr s
  case tpa => exact tpa_eq_tfr s
  all_goals rfl

end Sys2Proof
end

section
/-! PROOFS. The operand forms (30_encoding.md R93 to R108): effective addresses as exact sums, side effects, postbytes. -/

namespace Sys2Proof

open Sys2Proof.Machine

/-! ### Base, offset and sum -/

theorem base_value_eq (r : BaseReg) (npc : Word) (s : State) : r.value npc s = BitVec.ofInt 16 (baseNat r npc s) := by
  cases r <;> exact word_eq_ofInt _

theorem base_add_ofInt (r : BaseReg) (npc : Word) (s : State) (k : Int) :
    r.value npc s + BitVec.ofInt 16 k = BitVec.ofInt 16 (baseNat r npc s + k) := by
  rw [base_value_eq, BitVec.ofInt_add]

theorem base_add_word (r : BaseReg) (npc : Word) (s : State) (n : Word) :
    r.value npc s + n = BitVec.ofInt 16 (baseNat r npc s + n.toInt) := by
  rw [← base_add_ofInt, BitVec.ofInt_toInt]

theorem base_add_nat (r : BaseReg) (npc : Word) (s : State) (n : Nat) :
    r.value npc s + BitVec.ofNat 16 n = BitVec.ofInt 16 (baseNat r npc s + n) := by
  rw [← base_add_ofInt, BitVec.ofInt_natCast]

theorem base_add_zext8 (r : BaseReg) (npc : Word) (s : State) (v : Byte) :
    r.value npc s + zext8 v = BitVec.ofInt 16 (baseNat r npc s + v.toNat) := by
  rw [zext8_eq, base_add_nat]

theorem base_add_d (r : BaseReg) (npc : Word) (s : State) :
    r.value npc s + s.d = BitVec.ofInt 16 (baseNat r npc s + s.dNat) := by
  rw [d_eq, base_add_nat]

/-- The step of an auto form as a word (30_encoding.md R105). -/
theorem autoAdjust_eq (n : BitVec 4) : autoAdjust n = BitVec.ofInt 16 (autoStep n) := by
  revert n; decide

theorem add_autoAdjust (v : Word) (n : BitVec 4) : v + autoAdjust n = BitVec.ofInt 16 (v.toNat + autoStep n) := by
  rw [autoAdjust_eq, BitVec.ofInt_add, ← word_eq_ofInt]

/-- The effective addresses of the forms that adjust nothing (30_encoding.md R101 to R104, R106, R107). -/
theorem idx_ea_eq (s : State) (npc : Word) (r : BaseReg) :
    (∀ n, (Idx.off5 r n).ea npc s = BitVec.ofInt 16 (baseNat r npc s + n.toInt)) ∧
    (∀ n, (Idx.off9 r n).ea npc s = BitVec.ofInt 16 (baseNat r npc s + n.toInt)) ∧
    (∀ n, (Idx.off16 r n).ea npc s = BitVec.ofInt 16 (baseNat r npc s + n.toInt)) ∧
    (Idx.acc r .a).ea npc s = BitVec.ofInt 16 (baseNat r npc s + s.a.toNat) ∧
    (Idx.acc r .b).ea npc s = BitVec.ofInt 16 (baseNat r npc s + s.b.toNat) ∧
    (Idx.acc r .d).ea npc s = BitVec.ofInt 16 (baseNat r npc s + s.dNat) ∧
    (∀ n, (Idx.ind16 r n).ea npc s = s.readWord (BitVec.ofInt 16 (baseNat r npc s + n.toInt))) ∧
    (Idx.indD r).ea npc s = s.readWord (BitVec.ofInt 16 (baseNat r npc s + s.dNat)) :=
  ⟨fun n => base_add_ofInt r npc s n.toInt, fun n => base_add_ofInt r npc s n.toInt, base_add_word r npc s,
    base_add_zext8 r npc s s.a, base_add_zext8 r npc s s.b, base_add_d r npc s,
    fun n => congrArg s.readWord (base_add_word r npc s n), congrArg s.readWord (base_add_d r npc s)⟩

/-! ### Postbytes (30_encoding.md R100) -/

theorem wordBytes_eq (w : Word) : wordBytes w = wordBE w := (wordBE_eq w).symm

theorem base_code_toNat (r : BaseReg) : r.code.toNat = baseCode r := by cases r <;> rfl

theorem off5_postbyte (c : BitVec 2) (n : BitVec 5) : (c ++ 0#1 ++ n : Byte) = BitVec.ofNat 8 (64 * c.toNat + n.toNat) := by
  revert c n; decide

theorem auto_postbyte (c : BitVec 2) (post : Bool) (n : BitVec 4) : (c ++ 1#1 ++ BitVec.ofBool post ++ n : Byte) =
    BitVec.ofNat 8 (64 * c.toNat + (32 + 16 * post.toNat + n.toNat)) := by
  revert c post n; decide

theorem off9_postbyte (c : BitVec 2) (sign : BitVec 1) : (7#3 ++ c ++ 0#2 ++ sign : Byte) =
    BitVec.ofNat 8 (0xE0 + 8 * c.toNat + sign.toNat) := by
  revert c sign; decide

/-- The postbytes with bits 7:5 set and no offset in them: extension bytes, an accumulator, a pointer. -/
theorem long_postbyte (r : BaseReg) (form : BitVec 3) : (7#3 ++ r.code ++ form : Byte) =
    BitVec.ofNat 8 (0xE0 + form.toNat + 8 * baseCode r) := by
  revert form; cases r <;> decide

theorem acc_bytes (r : BaseReg) (k : AccReg) :
    (Idx.acc r k).bytes = [BitVec.ofNat 8 (0xE4 + k.code.toNat + 8 * baseCode r)] := by
  cases r <;> cases k <;> rfl

/-- The sign bit of a 9-bit offset (30_encoding.md R102). -/
theorem offset_sign (n : BitVec 9) : (n.extractLsb' 8 1).toNat = if n.toInt < 0 then 1 else 0 := by
  revert n; decide

theorem offset_low (n : BitVec 9) : n.extractLsb' 0 8 = BitVec.ofNat 8 n.toNat := by
  apply BitVec.eq_of_toNat_eq; simp

theorem idx_bytes_eq (r : BaseReg) : let c := baseCode r
    (∀ n, (Idx.off5 r n).bytes = [BitVec.ofNat 8 (64 * c + n.toNat)]) ∧
    (∀ n, (Idx.off9 r n).bytes = [BitVec.ofNat 8 (0xE0 + 8 * c + if n.toInt < 0 then 1 else 0), BitVec.ofNat 8 n.toNat]) ∧
    (∀ n, (Idx.off16 r n).bytes = BitVec.ofNat 8 (0xE2 + 8 * c) :: wordBE n) ∧
    (∀ n, (Idx.ind16 r n).bytes = BitVec.ofNat 8 (0xE3 + 8 * c) :: wordBE n) ∧
    (Idx.acc r .a).bytes = [BitVec.ofNat 8 (0xE4 + 8 * c)] ∧ (Idx.acc r .b).bytes = [BitVec.ofNat 8 (0xE5 + 8 * c)] ∧
    (Idx.acc r .d).bytes = [BitVec.ofNat 8 (0xE6 + 8 * c)] ∧ (Idx.indD r).bytes = [BitVec.ofNat 8 (0xE7 + 8 * c)] := by
  intro c
  refine ⟨fun n => ?_, fun n => ?_, fun n => ?_, fun n => ?_, ?_, ?_, ?_, ?_⟩
  · rw [Idx.bytes, off5_postbyte, base_code_toNat]
  · rw [Idx.bytes, off9_postbyte, base_code_toNat, offset_sign, offset_low]
  · rw [Idx.bytes, wordBytes_eq, long_postbyte]; rfl
  · rw [Idx.bytes, wordBytes_eq, long_postbyte]; rfl
  · exact acc_bytes r .a
  · exact acc_bytes r .b
  · exact acc_bytes r .d
  · exact congrArg (fun xb => [xb]) (long_postbyte r 7#3)

theorem auto_bytes_eq (post : Bool) (n : BitVec 4) : let k := 32 + 16 * post.toNat + n.toNat
    (Idx.auto .x post n).bytes = [BitVec.ofNat 8 k] ∧ (Idx.auto .y post n).bytes = [BitVec.ofNat 8 (64 + k)] ∧
    (Idx.auto .sp post n).bytes = [BitVec.ofNat 8 (128 + k)] := by
  intro k
  have h (r : AutoReg) : (Idx.auto r post n).bytes = [BitVec.ofNat 8 (64 * r.code.toNat + k)] :=
    congrArg (fun xb => [xb]) (auto_postbyte r.code post n)
  exact ⟨(h .x).trans (by simp [AutoReg.code]), h .y, h .sp⟩

/-! ### Operands -/

/-- Settles O17: the operand functions form by form, then the indexed addresses and postbytes. -/
theorem operandAddresses : Obligations.OperandAddresses := by
  refine ⟨fun s npc ii dd v a => ?direct, fun s npc i => ?indexed, idx_ea_eq, idx_bytes_eq, auto_bytes_eq⟩
  case direct =>
    intro page0
    have hpage : directEa dd = page0 := zext8_eq dd
    exact ⟨rfl, rfl, rfl, rfl, congrArg s.readByte hpage, congrArg s.readWord hpage, hpage, rfl, rfl, rfl, rfl, rfl, rfl,
      rfl, congrArg s.touch hpage, rfl, rfl, congrArg s.touchWord hpage, rfl, rfl, rfl, rfl, rfl, rfl, rfl, rfl⟩
  case indexed => exact ⟨rfl, rfl, rfl, rfl, rfl, rfl, rfl, rfl, rfl, rfl, rfl, rfl⟩

/-- Settles O18, form by form. -/
theorem autoFormsAdjustTheirRegister : Obligations.AutoFormsAdjustTheirRegister := by
  intro s npc n
  refine ⟨⟨rfl, rfl, rfl⟩, fun r => by cases r <;> rfl, fun post => ?x, fun post => ?y, fun post => ?sp,
    fun r k => congrArg s.touchWord (base_add_word r npc s k), fun r => congrArg s.touchWord (base_add_d r npc s),
    fun i hauto hind16 hindD => ?none⟩
  case x => exact congrArg (fun v => { s with x := v }) (add_autoAdjust s.x n)
  case y => exact congrArg (fun v => { s with y := v }) (add_autoAdjust s.y n)
  case sp => exact congrArg (fun v => { s with sp := v }) (add_autoAdjust s.sp n)
  case none =>
    cases i with
    | auto r post k => exact absurd rfl (hauto r post k)
    | ind16 r k => exact absurd rfl (hind16 r k)
    | indD r => exact absurd rfl (hindD r)
    | _ => rfl

end Sys2Proof
end

section
/-! PROOFS. MOVB and MOVW, TFR, SEX and EXG (40_load_store_transfer_move.md R159 to R164, R173, R174). -/

namespace Sys2Proof

open Sys2Proof.Machine

/-! ### Moves -/

/-- A byte stored, then the PC moved on. -/
theorem writeByte_pc_stores (u : State) (ea : Word) (v : Byte) (p : Word) :
    SameButMemory { u with pc := p } { u.writeByte ea v with pc := p } ∧
      BytesStored { u with pc := p } { u.writeByte ea v with pc := p } ea [v] :=
  ⟨by simp [SameButMemory], (State.writeByte_stored u ea v).congr rfl rfl rfl rfl rfl rfl rfl rfl rfl rfl⟩

/-- A word stored, high byte lower, then the PC moved on. -/
theorem writeWord_pc_stores (u : State) (ea v : Word) (p : Word) :
    SameButMemory { u with pc := p } { u.writeWord ea v with pc := p } ∧
      BytesStored { u with pc := p } { u.writeWord ea v with pc := p } ea (wordBE v) := by
  rw [wordBE_eq]
  exact ⟨by simp [SameButMemory], (State.writeWord_stored u ea v).congr rfl rfl rfl rfl rfl rfl rfl rfl rfl rfl⟩

theorem encode_moves (ii : Byte) (v a h : Word) (i j : Idx) :
    encode (.movw (.imm v) (.idx j)) = [0x18, 0x00] ++ j.bytes ++ wordBE v ∧
    encode (.movw (.ext a) (.idx j)) = [0x18, 0x01] ++ j.bytes ++ wordBE a ∧
    encode (.movw (.idx i) (.idx j)) = [0x18, 0x02] ++ i.bytes ++ j.bytes ∧
    encode (.movw (.imm v) (.ext h)) = [0x18, 0x03] ++ wordBE v ++ wordBE h ∧
    encode (.movw (.ext a) (.ext h)) = [0x18, 0x04] ++ wordBE a ++ wordBE h ∧
    encode (.movw (.idx i) (.ext h)) = [0x18, 0x05] ++ i.bytes ++ wordBE h ∧
    encode (.movb (.imm ii) (.idx j)) = [0x18, 0x08] ++ j.bytes ++ [ii] ∧
    encode (.movb (.ext a) (.idx j)) = [0x18, 0x09] ++ j.bytes ++ wordBE a ∧
    encode (.movb (.idx i) (.idx j)) = [0x18, 0x0A] ++ i.bytes ++ j.bytes ∧
    encode (.movb (.imm ii) (.ext h)) = [0x18, 0x0B, ii] ++ wordBE h ∧
    encode (.movb (.ext a) (.ext h)) = [0x18, 0x0C] ++ wordBE a ++ wordBE h ∧
    encode (.movb (.idx i) (.ext h)) = [0x18, 0x0D] ++ i.bytes ++ wordBE h := by
  simp only [← wordBytes_eq]
  exact ⟨rfl, rfl, rfl, rfl, rfl, rfl, rfl, rfl, rfl, rfl, rfl, rfl⟩

/-- Settles O21: what is written after both operands have been formed is stored there. -/
theorem movesCopyMemory : Obligations.MovesCopyMemory :=
  ⟨fun _ => ⟨fun _ _ => ⟨_, rfl, writeByte_pc_stores _ _ _ _⟩, fun _ _ => ⟨_, rfl, writeWord_pc_stores _ _ _ _⟩⟩,
    encode_moves⟩

/-! ### Transfers and exchanges -/

theorem regNat_lt_of_is8 {r : XReg} (h : r.is8 = true) (first : Bool) (s : State) : regNat r first s < 256 := by
  cases r <;> simp [XReg.is8] at h
  · exact s.a.isLt
  · exact s.b.isLt
  · exact Ccr.nat_lt s.ccr

theorem word_loByte_ofNat (h : Byte) {n : Nat} (hn : n < 256) :
    word h (loByte (BitVec.ofNat 16 n)) = BitVec.ofNat 16 (256 * h.toNat + n) := by
  have := h.isLt
  apply BitVec.eq_of_toNat_eq
  rw [loByte_ofNat, word_toNat, BitVec.toNat_ofNat, BitVec.toNat_ofNat]
  omega

/-- What TFR writes (40_load_store_transfer_move.md R160). -/
theorem transfer_value_eq (src dst : XReg) (s : State) :
    (if src.is8 && !dst.is8 then sext8 (loByte (src.read true s)) else src.read true s) =
      BitVec.ofNat 16 (if src.is8 && !dst.is8 && decide (128 ≤ regNat src true s) then 0xFF00 + regNat src true s
        else regNat src true s) := by
  rw [XReg_read_eq]
  cases hcell : src.is8 && !dst.is8 with
  | false => simp
  | true =>
    have hlt := regNat_lt_of_is8 (by simpa using (Bool.and_eq_true_iff.mp hcell).1) true s
    rw [if_pos rfl, loByte_ofNat, sext8_eq, BitVec.toNat_ofNat, Nat.mod_eq_of_lt hlt]
    simp

/-- What the first register of EXG receives (40_load_store_transfer_move.md R163). -/
theorem exchangeFill_eq (r1 r2 : XReg) (s : State) : exchangeFill r1 r2 (r2.read false s) =
    BitVec.ofNat 16 ((if !r1.is8 && r2.is8 && r2 != .a then 0xFF00 else 0) + regNat r2 false s) := by
  rw [exchangeFill, XReg_read_eq]
  cases hcell : !r1.is8 && r2.is8 with
  | false => simp
  | true =>
    have hlt := regNat_lt_of_is8 (Bool.and_eq_true_iff.mp hcell).2 false s
    rw [if_pos rfl, word_loByte_ofNat _ hlt]
    by_cases ha : r2 = .a <;> simp [ha]

/-- Two free values are drawn where a temporary register is named, and `i_delay` looks at I. -/
theorem armDelay_drewIf_eq (s u : State) (used : Bool) (h : u.freeIdx = s.freeIdx) : ((u.drewIf used).armDelay s) =
    { u with iDelay := s.ccr.i && !u.ccr.i, freeIdx := if used then s.freeIdx + 2 else s.freeIdx } := by
  cases used
  · simp [State.drewIf, State.armDelay, ← h]
  · simp [State.drewIf, State.armDelay, State.drew, h]

theorem transferOp_eq (src dst : XReg) (s : State) :
    let v := regNat src true s
    let u := putReg dst false (if src.is8 && !dst.is8 && decide (128 ≤ v) then 0xFF00 + v else v) s
    transferOp src dst s =
      { u with iDelay := s.ccr.i && !u.ccr.i, freeIdx := if src = .tmp then s.freeIdx + 2 else s.freeIdx } := by
  intro v u
  rw [transferOp, transfer_value_eq, XReg_write_eq, armDelay_drewIf_eq _ _ _ (putReg_freeIdx ..)]
  simp only [beq_iff_eq]
  rfl

theorem exchangeOp_eq (r1 r2 : XReg) (s : State) :
    let fill := if !r1.is8 && r2.is8 && r2 != .a then 0xFF00 else 0
    let u := putReg r2 false (regNat r1 true s) (putReg r1 true (fill + regNat r2 false s) s)
    exchangeOp r1 r2 s = { u with
      iDelay := s.ccr.i && !u.ccr.i, freeIdx := (if r1 = .tmp ∨ r2 = .tmp then s.freeIdx + 2 else s.freeIdx) } := by
  intro fill u
  rw [exchangeOp, exchangeFill_eq, XReg_read_eq, XReg_write_eq, XReg_write_eq, armDelay_drewIf_eq _ _ _ (by simp)]
  simp only [Bool.or_eq_true, beq_iff_eq]
  rfl

theorem transferPostbyte_eq (exchange : Bool) (src dst : XReg) :
    transferPostbyte exchange src dst = BitVec.ofNat 8 (128 * exchange.toNat + 16 * regCode src + regCode dst) := by
  cases exchange <;> cases src <;> cases dst <;> rfl

/-- Settles O22, from `transferOp_eq`; the SEX cells are TFR cells. -/
theorem transferCells : Obligations.TransferCells := by
  intro s src dst v w u
  refine ⟨.of ?_ (by simp [u]) (by simp [u]) (by simp [u]), ?_, ?_⟩
  · rw [show exec (.tfr src dst) s = .next { transferOp src dst s with pc := s.npc 2 } from rfl, transferOp_eq]
  · rw [show encode (.tfr src dst) = [0xB7, transferPostbyte false src dst] from rfl, transferPostbyte_eq]
    simp
  · rintro f g rfl rfl
    exact ⟨rfl, rfl⟩

theorem exec_exg (r1 r2 : XReg) (s : State) :
    exec (.exg r1 r2) s = .next { exchangeOp r1 r2 s with pc := s.npc 2 } := rfl

theorem hiByte_zext8 (v : Byte) : hiByte (zext8 v) = 0 := by
  have := v.isLt
  rw [hiByte_eq, zext8_eq, BitVec.toNat_ofNat, show v.toNat % 2 ^ 16 / 256 = 0 by omega]; rfl

/-- The cells of EXG where D overlaps A or B (40_load_store_transfer_move.md R163). -/
theorem exchange_overlapping (s : State) :
    CompletesInto (.exg .a .d) s { s with a := 0, b := s.a, iDelay := false, pc := s.npc 2 } ∧
    CompletesInto (.exg .b .d) s { s with a := 0, iDelay := false, pc := s.npc 2 } ∧
    CompletesInto (.exg .d .a) s { s with a := s.b, b := s.a, iDelay := false, pc := s.npc 2 } ∧
    CompletesInto (.exg .d .b) s { s with a := 0xFF, iDelay := false, pc := s.npc 2 } := by
  refine ⟨.of ?ad rfl rfl rfl, .of ?bd rfl rfl rfl, .of ?da rfl rfl rfl, .of ?db rfl rfl rfl⟩
  all_goals
    rw [exec_exg]
    simp [exchangeOp, exchangeFill, XReg.read, XReg.write, XReg.is8, State.drewIf, State.armDelay, State.setD, State.d,
      hiByte_zext8, loByte_zext8]

/-- Settles O23, from `exchangeOp_eq` and the overlapping cells written out. -/
theorem exchangeCells : Obligations.ExchangeCells := by
  refine ⟨fun s r1 r2 => ?cell, exchange_overlapping⟩
  intro v1 v2 fill u
  refine ⟨.of ?_ (by simp [u]) (by simp [u]) (by simp [u]), ?_⟩
  · rw [exec_exg, exchangeOp_eq]
  · rw [show encode (.exg r1 r2) = [0xB7, transferPostbyte true r1 r2] from rfl, transferPostbyte_eq]
    simp

end Sys2Proof
end

section
/-! PROOFS. Divisions with a defined quotient (43_muldiv.md R325 to R329). -/

namespace Sys2Proof

open Sys2Proof.Machine

theorem dNat_setD (s : State) (v : Word) : (s.setD v).dNat = v.toNat := by
  rw [← d_toNat, State.d, State.setD, word_hiByte_loByte]

theorem yd_toNat (s : State) : s.yd.toNat = 65536 * s.y.toNat + s.dNat := by
  have hd := s.d.isLt
  rw [d_toNat] at hd
  rw [State.yd, BitVec.toNat_append, d_toNat, ← Nat.shiftLeft_add_eq_or_of_lt hd, Nat.shiftLeft_eq]
  omega

/-! ### Unsigned -/

/-- Quotient and remainder as words: the quotient fits, the remainder always does. -/
theorem word_div_mod {n : Nat} {d : Word} (hd : 0 < d.toNat) (hq : n < 65536 * d.toNat) :
    (BitVec.ofNat 16 (n / d.toNat)).toNat = n / d.toNat ∧
    (BitVec.ofNat 16 (n / d.toNat)).toNat * d.toNat + (BitVec.ofNat 16 (n % d.toNat)).toNat = n ∧
    (BitVec.ofNat 16 (n % d.toNat)).toNat < d.toNat := by
  have hquot : n / d.toNat < 65536 := Nat.div_lt_of_lt_mul (by rwa [Nat.mul_comm])
  have hrem := Nat.mod_lt n hd
  have hdlt := d.isLt
  rw [BitVec.toNat_ofNat, BitVec.toNat_ofNat, Nat.mod_eq_of_lt hquot, Nat.mod_eq_of_lt (by omega)]
  exact ⟨rfl, Nat.div_add_mod' n d.toNat, hrem⟩

theorem execEdiv_eq {s : State} (hx : 0 < s.x.toNat) (hn : 65536 * s.y.toNat + s.dNat < 65536 * s.x.toNat) :
    let n := 65536 * s.y.toNat + s.dNat
    let q := BitVec.ofNat 16 (n / s.x.toNat)
    execEdiv s = .next { s.setD (BitVec.ofNat 16 (n % s.x.toNat)) with
      y := q, pc := s.npc 1, ccr := { s.ccr.sign q with v := false, c := false } } := by
  intro n q
  have hq : ¬ 0xFFFF < n / s.x.toNat := by
    have := Nat.div_lt_of_lt_mul (show n < s.x.toNat * 65536 by rw [Nat.mul_comm]; exact hn)
    omega
  simp only [execEdiv, inherent, yd_toNat]
  rw [if_neg (by omega), if_neg hq, isNeg_eq_msb, isZero_eq]
  rfl

theorem execIdiv_eq {s : State} (hx : 0 < s.x.toNat) :
    let q := BitVec.ofNat 16 (s.dNat / s.x.toNat)
    execIdiv s = .next { s.setD (BitVec.ofNat 16 (s.dNat % s.x.toNat)) with
      x := q, pc := s.npc 2, ccr := { s.ccr with z := isZero q, v := false, c := false } } := by
  intro q
  have hd : s.dNat < 65536 := by rw [← d_toNat]; exact s.d.isLt
  have hq : q.toNat = s.dNat / s.x.toNat := (word_div_mod hx (by omega)).1
  simp only [execIdiv, inherent, d_toNat]
  rw [if_neg (by omega), isZero, hq]
  rfl

theorem execFdiv_eq {s : State} (hn : s.dNat < s.x.toNat) :
    let q := BitVec.ofNat 16 (65536 * s.dNat / s.x.toNat)
    execFdiv s = .next { s.setD (BitVec.ofNat 16 (65536 * s.dNat % s.x.toNat)) with
      x := q, pc := s.npc 2, ccr := { s.ccr with z := isZero q, v := false, c := false } } := by
  intro q
  have hq : q.toNat = 65536 * s.dNat / s.x.toNat := (word_div_mod (by omega) (by omega)).1
  simp only [execFdiv, inherent, d_toNat]
  rw [if_neg (by omega), isZero, hq, Nat.mul_comm s.dNat]
  rfl

/-- Settles O38, from the three results and `word_div_mod`. -/
theorem unsignedDivisions : Obligations.UnsignedDivisions := by
  refine ⟨rfl, rfl, rfl, fun s hx => ⟨fun hn => ?ediv, ?idiv, fun hn => ?fdiv⟩⟩
  case ediv =>
    obtain ⟨-, hdiv, hrem⟩ := word_div_mod hx hn
    refine ⟨_, execEdiv_eq hx hn, ?_, ?_, rfl⟩
    · exact (congrArg _ (dNat_setD s _)).trans hdiv
    · exact (dNat_setD s _).trans_lt hrem
  case idiv =>
    have hd : s.dNat < 65536 := by rw [← d_toNat]; exact s.d.isLt
    obtain ⟨-, hdiv, hrem⟩ := word_div_mod hx (show s.dNat < 65536 * s.x.toNat by omega)
    refine ⟨_, execIdiv_eq hx, ?_, ?_, rfl⟩
    · exact (congrArg _ (dNat_setD s _)).trans hdiv
    · exact (dNat_setD s _).trans_lt hrem
  case fdiv =>
    obtain ⟨-, hdiv, hrem⟩ := word_div_mod hx (show 65536 * s.dNat < 65536 * s.x.toNat by omega)
    refine ⟨_, execFdiv_eq hn, ?_, ?_, rfl⟩
    · exact (congrArg _ (dNat_setD s _)).trans hdiv
    · exact (dNat_setD s _).trans_lt hrem

/-! ### Signed -/

theorem toInt_ofInt_word {n : Int} (hlo : -32768 ≤ n) (hhi : n ≤ 32767) : (BitVec.ofInt 16 n).toInt = n :=
  BitVec.toInt_ofInt_eq_self (by decide) hlo (by omega)

theorem isZero_ofInt {n : Int} (hlo : -32768 ≤ n) (hhi : n ≤ 32767) : isZero (BitVec.ofInt 16 n) = decide (n = 0) := by
  rw [isZero, decide_eq_decide, BitVec.toNat_ofInt]
  omega

theorem isNeg_ofInt {n : Int} (hlo : -32768 ≤ n) (hhi : n ≤ 32767) : isNeg (BitVec.ofInt 16 n) = decide (n < 0) := by
  rw [isNeg, toInt_ofInt_word hlo hhi]

/-- The remainder of a truncating division has the sign of the dividend (92_eei_decisions.md D11). -/
theorem tmod_mul_self_nonneg (n d : Int) : 0 ≤ n.tmod d * n := by
  rcases Int.le_total 0 n with hn | hn
  · exact Int.mul_nonneg (Int.tmod_nonneg d hn) hn
  · have h := Int.tmod_nonneg (a := -n) d (by omega)
    rw [Int.neg_tmod] at h
    exact Int.mul_nonneg_of_nonpos_of_nonpos (by omega) hn

theorem natAbs_tmod_lt (n : Int) {d : Int} (hd : d ≠ 0) : (n.tmod d).natAbs < d.natAbs := by
  rw [Int.natAbs_tmod]
  exact Nat.mod_lt _ (by omega)

/-- Quotient and remainder as words, where the quotient fits: truncated, the remainder smaller than the divisor and of the
dividend's sign. -/
theorem word_tdiv_tmod {n : Int} {d : Word} (hd : d.toInt ≠ 0) (hlo : -32768 ≤ n.tdiv d.toInt)
    (hhi : n.tdiv d.toInt ≤ 32767) :
    (BitVec.ofInt 16 (n.tdiv d.toInt)).toInt * d.toInt + (BitVec.ofInt 16 (n.tmod d.toInt)).toInt = n ∧
    (BitVec.ofInt 16 (n.tmod d.toInt)).toInt.natAbs < d.toInt.natAbs ∧
    0 ≤ (BitVec.ofInt 16 (n.tmod d.toInt)).toInt * n := by
  have hrem := natAbs_tmod_lt n hd
  have hdlo : -32768 ≤ d.toInt := BitVec.le_toInt d
  have hdhi : d.toInt < 32768 := BitVec.toInt_lt
  rw [toInt_ofInt_word hlo hhi, toInt_ofInt_word (by omega) (by omega)]
  exact ⟨Int.tdiv_mul_add_tmod n d.toInt, hrem, tmod_mul_self_nonneg n d.toInt⟩

/-- A 16-bit quotient fits but for -32768 / -1 (43_muldiv.md R329). -/
theorem word_tdiv_fits (n : Word) {d : Int} (hd : d ≠ 0) (hn : ¬(n.toInt = -32768 ∧ d = -1)) :
    -32768 ≤ n.toInt.tdiv d ∧ n.toInt.tdiv d ≤ 32767 := by
  have hlo : -32768 ≤ n.toInt := BitVec.le_toInt n
  have hhi : n.toInt < 32768 := BitVec.toInt_lt
  have habs := Int.natAbs_tdiv_le_natAbs n.toInt d
  refine ⟨by omega, ?_⟩
  by_contra hover
  have hq : n.toInt.tdiv d = 32768 := by omega
  have hdiv := Int.tdiv_mul_add_tmod n.toInt d
  have hrem := natAbs_tmod_lt n.toInt hd
  rw [hq] at hdiv
  omega

theorem yd_eq (s : State) : s.yd = s.y ++ BitVec.ofNat 16 s.dNat := by rw [State.yd, d_eq]

theorem execEdivs_eq {s : State} {n : Int} (hn : (s.y ++ BitVec.ofNat 16 s.dNat).toInt = n) (hx : s.x.toInt ≠ 0)
    (hlo : -32768 ≤ n.tdiv s.x.toInt) (hhi : n.tdiv s.x.toInt ≤ 32767) :
    let q := BitVec.ofInt 16 (n.tdiv s.x.toInt)
    execEdivs s = .next { s.setD (BitVec.ofInt 16 (n.tmod s.x.toInt)) with
      y := q, pc := s.npc 2, ccr := { s.ccr.sign q with v := false, c := false } } := by
  intro q
  simp only [execEdivs, inherent, yd_eq, hn]
  rw [if_neg hx, if_neg (by omega), Ccr.sign, isNeg_ofInt hlo hhi, isZero_ofInt hlo hhi]
  rfl

theorem execIdivs_eq {s : State} {n : Int} (hn : (BitVec.ofNat 16 s.dNat).toInt = n) (hx : s.x.toInt ≠ 0)
    (hlo : -32768 ≤ n.tdiv s.x.toInt) (hhi : n.tdiv s.x.toInt ≤ 32767) :
    let q := BitVec.ofInt 16 (n.tdiv s.x.toInt)
    execIdivs s = .next { s.setD (BitVec.ofInt 16 (n.tmod s.x.toInt)) with
      x := q, pc := s.npc 2, ccr := { s.ccr.sign q with v := false, c := false } } := by
  intro q
  simp only [execIdivs, inherent, d_eq, hn]
  rw [if_neg hx, if_neg (by omega), Ccr.sign, isNeg_ofInt hlo hhi, isZero_ofInt hlo hhi]
  rfl

theorem ofNat_dNat_setD (s : State) (v : Word) : BitVec.ofNat 16 (s.setD v).dNat = v := by
  rw [dNat_setD, BitVec.ofNat_toNat, BitVec.setWidth_eq]

/-- Settles O39, from the two results and `word_tdiv_tmod`. -/
theorem signedDivisions : Obligations.SignedDivisions := by
  refine ⟨rfl, rfl, fun s hx => ⟨fun hlo hhi => ?edivs, fun hn => ?idivs⟩⟩
  case edivs =>
    obtain ⟨hdiv, hrem, hsign⟩ := word_tdiv_tmod hx hlo hhi
    rw [← ofNat_dNat_setD s (BitVec.ofInt 16 (Int.tmod _ _))] at hdiv hrem hsign
    exact ⟨_, execEdivs_eq rfl hx hlo hhi, hdiv, hrem, hsign, rfl⟩
  case idivs =>
    obtain ⟨hlo, hhi⟩ := word_tdiv_fits _ hx hn
    obtain ⟨hdiv, hrem, hsign⟩ := word_tdiv_tmod hx hlo hhi
    rw [← ofNat_dNat_setD s (BitVec.ofInt 16 (Int.tmod _ _))] at hdiv hrem hsign
    exact ⟨_, execIdivs_eq rfl hx hlo hhi, hdiv, hrem, hsign, rfl⟩

end Sys2Proof
end

section
/-! PROOFS. Table interpolation (44_fuzzy_minmax_table.md R363 to R366), CALL and RTC (46_jump_call_stack.md R447, R448). -/

namespace Sys2Proof

open Sys2Proof.Machine

/-! ### Interpolation -/

/-- 256 times the value interpolated between the entries `y1` and `y2` at the fraction `b` / 256. -/
def interpSum (b y1 y2 : Nat) : Nat := 256 * y1 + b * y2 - b * y1

theorem interpSum_cast {w : Nat} (y1 y2 : BitVec w) (b : Byte) :
    (interpSum b.toNat y1.toNat y2.toNat : Int) = 256 * y1.toNat + interpProduct y1 y2 b := by
  have hle : b.toNat * y1.toNat ≤ 256 * y1.toNat := Nat.mul_le_mul_right _ b.isLt.le
  rw [interpSum, interpProduct, Int.mul_sub]
  push_cast [Nat.cast_sub (show b.toNat * y1.toNat ≤ 256 * y1.toNat + b.toNat * y2.toNat by omega)]
  omega

/-- The result of `interp_n` (44_fuzzy_minmax_table.md R363). -/
theorem interpResult_eq {w : Nat} (y1 y2 : BitVec w) (b : Byte) :
    interpResult y1 y2 b = BitVec.ofNat w (interpSum b.toNat y1.toNat y2.toNat / 256) := by
  have hsum := interpSum_cast y1 y2 b
  rw [interpResult, ← BitVec.ofInt_natCast, Int.fdiv_eq_ediv_of_nonneg _ (by decide)]
  congr 1
  omega

/-- The C flag of `interp_n`, the first bit below the radix point (44_fuzzy_minmax_table.md R366). -/
theorem interpCarry_eq {w : Nat} (y1 y2 : BitVec w) (b : Byte) :
    interpCarry y1 y2 b = decide (128 ≤ interpSum b.toNat y1.toNat y2.toNat % 256) := by
  have hsum := interpSum_cast y1 y2 b
  rw [interpCarry, Int.fmod_eq_emod_of_nonneg _ (by decide), decide_eq_decide]
  omega

/-- The interpolated value lies between the two entries: the fraction is below 1. -/
theorem interpSum_between (b : Byte) (y1 y2 : Nat) :
    min y1 y2 ≤ interpSum b.toNat y1 y2 / 256 ∧ interpSum b.toNat y1 y2 / 256 ≤ max y1 y2 := by
  have hb : b.toNat ≤ 256 := b.isLt.le
  unfold interpSum
  rcases Nat.le_total y1 y2 with hle | hle
  · obtain ⟨d, rfl⟩ := Nat.exists_eq_add_of_le hle
    have hd : b.toNat * d ≤ 256 * d := Nat.mul_le_mul_right d hb
    rw [Nat.mul_add]
    omega
  · obtain ⟨d, rfl⟩ := Nat.exists_eq_add_of_le hle
    have hd : b.toNat * d ≤ 256 * d := Nat.mul_le_mul_right d hb
    rw [Nat.mul_add b.toNat]
    omega

theorem setD_interpResult (s : State) (y1 y2 : Word) (b : Byte) :
    s.setD (interpResult y1 y2 b) = s.withD (interpSum b.toNat y1.toNat y2.toNat / 256) := by
  have h1 := y1.isLt
  have h2 := y2.isLt
  have hmax := (interpSum_between b y1.toNat y2.toNat).2
  rw [setD_eq, interpResult_eq, BitVec.toNat_ofNat, Nat.mod_eq_of_lt (by omega)]

/-- N, Z and C of an interpolation (44_fuzzy_minmax_table.md R364). -/
theorem nzc_interp {w : Nat} (s : State) (y1 y2 : BitVec w) (b : Byte) :
    let sum := interpSum b.toNat y1.toNat y2.toNat
    s.nzc (interpResult y1 y2 b) (interpCarry y1 y2 b) =
      { s with ccr := { s.ccr.sign (BitVec.ofNat w (sum / 256)) with c := decide (128 ≤ sum % 256) } } := by
  rw [State.nzc, Ccr.nz_eq, interpResult_eq, interpCarry_eq]

/-- TBL, with the operand's address, the state it leaves and the two entries named. -/
theorem execTbl_eq {s u : State} {i : Idx} {p ea : Word} (hp : s.npc (2 + i.len) = p) (hu : i.side p s = u)
    (hea : i.ea p s = ea) :
    let sum := interpSum s.b.toNat (u.readByte ea).toNat ((u.touch ea).readByte (ea + 1)).toNat
    execTbl i s = .next { u.touchWord ea with
      a := BitVec.ofNat 8 (sum / 256), pc := p,
      ccr := { s.ccr.sign (BitVec.ofNat 8 (sum / 256)) with c := decide (128 ≤ sum % 256) } } := by
  have hb : u.b = s.b := by rw [← hu, Idx_side_b]
  have hccr : u.ccr = s.ccr := by rw [← hu, Idx_side_ccr]
  simp only [execTbl, withIdx, hp, hu, hea, nzc_interp, State.touchWord]
  simp only [interpResult_eq, hb, State.touch_ccr, hccr]

/-- ETBL, likewise. -/
theorem execEtbl_eq {s u : State} {i : Idx} {p ea : Word} (hp : s.npc (2 + i.len) = p) (hu : i.side p s = u)
    (hea : i.ea p s = ea) :
    let sum := interpSum s.b.toNat (u.readWord ea).toNat ((u.touchWord ea).readWord (ea + 2)).toNat
    execEtbl i s = .next { ((u.touchWord ea).touchWord (ea + 2)).withD (sum / 256) with
      pc := p,
      ccr := { s.ccr.sign (BitVec.ofNat 16 (sum / 256)) with c := decide (128 ≤ sum % 256) } } := by
  have hb : u.b = s.b := by rw [← hu, Idx_side_b]
  have hccr : u.ccr = s.ccr := by rw [← hu, Idx_side_ccr]
  simp only [execEtbl, withIdx, hp, hu, hea, nzc_interp, setD_interpResult, hb, State.withD, State.touchWord_ccr, hccr]

/-- Settles O46, from the two results and `interpSum_between`. -/
theorem tableInterpolation : Obligations.TableInterpolation := by
  intro s i p u ea near
  have hppage : u.ppage = s.ppage := Idx_side_ppage i p s
  have hdev : u.dev = s.dev := Idx_side_dev i p s
  have hmem : u.mem = s.mem := Idx_side_mem i p s
  refine ⟨⟨?tbl, interpSum_between s.b _ _⟩, ⟨?etbl, interpSum_between s.b _ _⟩, rfl, rfl⟩
  case tbl => exact .of (execTbl_eq rfl rfl rfl) (by simp [hppage]) (by simp [hdev]) (by simp [hmem])
  case etbl =>
    exact .of (execEtbl_eq rfl rfl rfl) (by simp [State.withD, hppage]) (by simp [State.withD, hdev])
      (by simp [State.withD, hmem])

/-! ### CALL and RTC -/

theorem call_storesInto {i : Instr} {s u : State} {npc target : Word} {page : Byte}
    (h : exec i s = .next (u.call npc target page)) :
    StoresInto i s { u with ppage := page, sp := u.sp - 3, pc := target } (u.sp - 3) (u.ppage :: wordBE npc) :=
  ⟨_, h, call_stores u npc target page⟩

theorem execRtc_eq (s : State) : execRtc s = .next { (s.touch s.sp).touchWord (s.sp + 1) with
    ppage := s.readByte s.sp, sp := s.sp + 3, pc := (s.touch s.sp).readWord (s.sp + 1) } := by
  have hsp : s.sp + 3 = s.sp + 1 + 2 := by bv_omega
  rw [hsp]
  rfl

theorem exec_call_ind16 (s : State) (r : BaseReg) (n : Word) {q : Word} (hq : r.value (s.npc 4) s + n = q) :
    exec (.call (.ind (.ind16 r n))) s = .next (((s.touchWord q).touch (q + 2)).call (s.npc 4) (s.readWord q)
      ((s.touchWord q).readByte (q + 2))) := by
  subst hq; rfl

theorem exec_call_indD (s : State) (r : BaseReg) {q : Word} (hq : r.value (s.npc 2) s + s.d = q) :
    exec (.call (.ind (.indD r))) s = .next (((s.touchWord q).touch (q + 2)).call (s.npc 2) (s.readWord q)
      ((s.touchWord q).readByte (q + 2))) := by
  subst hq; rfl

/-- Settles O50: every CALL is `State.call` at its operand's target, page and pointer. -/
theorem callAndReturn : Obligations.CallAndReturn := by
  intro s
  refine ⟨fun a pg => call_storesInto rfl, fun i pg => ?idx, fun r n => ?ind16, fun r => ?indD, execRtc_eq s, rfl,
    fun a i pg => ⟨?ext_bytes, rfl, rfl⟩⟩
  case idx =>
    intro p u
    rw [← show u.ppage = s.ppage from Idx_side_ppage i p s]
    exact call_storesInto rfl
  case ind16 => exact call_storesInto (exec_call_ind16 s r n (base_add_word r (s.npc 4) s n))
  case indD => exact call_storesInto (exec_call_indD s r (base_add_d r (s.npc 2) s))
  case ext_bytes => rw [← wordBytes_eq]; rfl

end Sys2Proof
end

section
/-! PROOFS. Loads, LEA, stores and the named transfers (40_load_store_transfer_move.md R142 to R158, R165 to R172). -/

namespace Sys2Proof

open Sys2Proof.Machine

/-! ### Opcodes of the operand forms (30_encoding.md R94 to R96, R100) -/

theorem encodedSrc8_of {mk : Src8 → Instr} {imm dir ext idx : Byte} (himm : ∀ ii, encode (mk (.imm ii)) = [imm, ii])
    (hdir : ∀ dd, encode (mk (.dir dd)) = [dir, dd]) (hext : ∀ a, encode (mk (.ext a)) = ext :: wordBytes a)
    (hidx : ∀ i, encode (mk (.idx i)) = idx :: i.bytes) : EncodedSrc8 mk imm dir ext idx :=
  ⟨himm, hdir, fun a => by rw [hext, wordBytes_eq], hidx⟩

theorem encodedSrc16_of {mk : Src16 → Instr} {imm dir ext idx : Byte}
    (himm : ∀ v, encode (mk (.imm v)) = imm :: wordBytes v) (hdir : ∀ dd, encode (mk (.dir dd)) = [dir, dd])
    (hext : ∀ a, encode (mk (.ext a)) = ext :: wordBytes a) (hidx : ∀ i, encode (mk (.idx i)) = idx :: i.bytes) :
    EncodedSrc16 mk imm dir ext idx :=
  ⟨fun v => by rw [himm, wordBytes_eq], hdir, fun a => by rw [hext, wordBytes_eq], hidx⟩

/-- A memory operand with no byte after it. -/
theorem encodedMem_of {mk : MemOp → Instr} {dir ext idx : Byte} (hdir : ∀ dd, encode (mk (.dir dd)) = [dir, dd])
    (hext : ∀ a, encode (mk (.ext a)) = ext :: wordBytes a) (hidx : ∀ i, encode (mk (.idx i)) = idx :: i.bytes) :
    EncodedMem mk dir ext idx [] :=
  ⟨hdir, fun a => by rw [hext, wordBytes_eq, List.append_nil], fun i => by rw [hidx, List.append_nil]⟩

/-! ### Loads -/

/-- The flags of a load, a store, TAB and TBA as facts about the value (40_load_store_transfer_move.md R141). -/
theorem nzv0_eq_moved {w : Nat} (t : State) (v : BitVec w) : t.nzv0 v = { t with ccr := t.ccr.moved v } := by
  rw [State.nzv0, Ccr.nzv0_eq]

/-- An instruction that moves `v` into a register: `t` is the state with the register written, its flags still those of
`s`. -/
theorem completesInto_moved {w : Nat} {i : Instr} {s t : State} {v : BitVec w} {p : Word}
    (hexec : exec i s = .next { t.nzv0 v with pc := p }) (hccr : t.ccr = s.ccr) (hppage : t.ppage = s.ppage)
    (hdev : t.dev = s.dev) (hmem : t.mem = s.mem) : CompletesInto i s { t with ccr := s.ccr.moved v, pc := p } :=
  .of (by rw [hexec, nzv0_eq_moved, hccr]) hppage hdev hmem

theorem loads8_complete (s : State) (src : Src8) :
    let p := s.npc (1 + src.len); let v := src.value p s; let u := src.side p s
    CompletesInto (.ldaa src) s { u with a := v, ccr := s.ccr.moved v, pc := p } ∧
    CompletesInto (.ldab src) s { u with b := v, ccr := s.ccr.moved v, pc := p } := by
  intro p v u
  have hccr : u.ccr = s.ccr := Src8_side_ccr src p s
  have hppage : u.ppage = s.ppage := Src8_side_ppage src p s
  have hdev : u.dev = s.dev := Src8_side_dev src p s
  have hmem : u.mem = s.mem := Src8_side_mem src p s
  exact ⟨completesInto_moved (t := { u with a := v }) rfl hccr hppage hdev hmem,
    completesInto_moved (t := { u with b := v }) rfl hccr hppage hdev hmem⟩

theorem loads16_complete (s : State) (src : Src16) :
    let p := s.npc (1 + src.len); let v := src.value p s; let u := src.side p s
    CompletesInto (.ldd src) s { u.withD v.toNat with ccr := s.ccr.moved v, pc := p } ∧
    CompletesInto (.ldx src) s { u with x := v, ccr := s.ccr.moved v, pc := p } ∧
    CompletesInto (.ldy src) s { u with y := v, ccr := s.ccr.moved v, pc := p } ∧
    CompletesInto (.lds src) s { u with sp := v, ccr := s.ccr.moved v, pc := p } := by
  intro p v u
  have hccr : u.ccr = s.ccr := Src16_side_ccr src p s
  have hppage : u.ppage = s.ppage := Src16_side_ppage src p s
  have hdev : u.dev = s.dev := Src16_side_dev src p s
  have hmem : u.mem = s.mem := Src16_side_mem src p s
  refine ⟨?ldd, completesInto_moved (t := { u with x := v }) rfl hccr hppage hdev hmem,
    completesInto_moved (t := { u with y := v }) rfl hccr hppage hdev hmem,
    completesInto_moved (t := { u with sp := v }) rfl hccr hppage hdev hmem⟩
  case ldd =>
    rw [← setD_eq]
    exact completesInto_moved (t := u.setD v) rfl hccr hppage hdev hmem

/-- LEAX, LEAY and LEAS: the address is written after any adjustment (40_load_store_transfer_move.md R148 to R150). -/
theorem leas_complete (s : State) (i : Idx) :
    let p := s.npc (1 + i.len); let u := i.side p s
    CompletesInto (.leax i) s { u with x := i.ea p s, pc := p } ∧
    CompletesInto (.leay i) s { u with y := i.ea p s, pc := p } ∧
    CompletesInto (.leas i) s { u with sp := i.ea p s, pc := p } := by
  intro p u
  have hppage : u.ppage = s.ppage := Idx_side_ppage i p s
  have hdev : u.dev = s.dev := Idx_side_dev i p s
  have hmem : u.mem = s.mem := Idx_side_mem i p s
  exact ⟨.of rfl hppage hdev hmem, .of rfl hppage hdev hmem, .of rfl hppage hdev hmem⟩

/-- Settles O19, from the loads of a byte, the loads of a word and the three LEA. -/
theorem loadsSetRegisterAndFlags : Obligations.LoadsSetRegisterAndFlags := by
  refine ⟨fun s => ⟨loads8_complete s, loads16_complete s, ?ldaa, ?ldab, ?ldd, ?ldx, ?ldy, ?lds⟩, fun s i => ?lea⟩
  case ldaa | ldab => exact encodedSrc8_of (fun _ => rfl) (fun _ => rfl) (fun _ => rfl) (fun _ => rfl)
  case ldd | ldx | ldy | lds => exact encodedSrc16_of (fun _ => rfl) (fun _ => rfl) (fun _ => rfl) (fun _ => rfl)
  case lea =>
    obtain ⟨hx, hy, hsp⟩ := leas_complete s i
    exact ⟨hx, rfl, hy, rfl, hsp, rfl⟩

/-! ### Stores -/

/-- A store of a byte, made in the state `u` that the operand leaves (40_load_store_transfer_move.md R151). -/
theorem storesInto_store8 {i : Instr} {s u : State} {ea p : Word} {v : Byte}
    (hexec : exec i s = .next { store8 ea v u with pc := p }) (hccr : u.ccr = s.ccr) :
    StoresInto i s { u with ccr := s.ccr.moved v, pc := p } ea [v] := by
  refine ⟨_, hexec, ?same, (State.writeByte_stored u ea v).congr rfl rfl rfl rfl rfl rfl rfl rfl rfl rfl⟩
  case same => simp [store8, nzv0_eq_moved, hccr]

/-- A store of a word, high byte lower (40_load_store_transfer_move.md R153). -/
theorem storesInto_store16 {i : Instr} {s u : State} {ea p v : Word}
    (hexec : exec i s = .next { store16 ea v u with pc := p }) (hccr : u.ccr = s.ccr) :
    StoresInto i s { u with ccr := s.ccr.moved v, pc := p } ea (wordBE v) := by
  rw [wordBE_eq]
  refine ⟨_, hexec, ?same, (State.writeWord_stored u ea v).congr rfl rfl rfl rfl rfl rfl rfl rfl rfl rfl⟩
  case same => simp [store16, nzv0_eq_moved, hccr]

theorem wordBE_d (s : State) : wordBE s.d = [s.a, s.b] := by
  rw [wordBE_eq, State.d, hiByte_word, loByte_word]

/-- Settles O20: each store is `store8` or `store16` of a register after the adjustment, which leaves A and B alone. -/
theorem storesWriteRegisterAndFlags : Obligations.StoresWriteRegisterAndFlags := by
  intro s ad p u ea
  have hccr : u.ccr = s.ccr := MemOp_side_ccr ad p s
  have ha : u.a = s.a := MemOp_side_a ad p s
  have hb : u.b = s.b := MemOp_side_b ad p s
  have hd : u.d = s.d := by rw [State.d, ha, hb, State.d]
  refine ⟨?staa, ?stab, ?std, storesInto_store16 rfl hccr, storesInto_store16 rfl hccr, storesInto_store16 rfl hccr,
    ?_, ?_, ?_, ?_, ?_, ?_⟩
  case staa => rw [← ha]; exact storesInto_store8 rfl hccr
  case stab => rw [← hb]; exact storesInto_store8 rfl hccr
  case std => rw [← d_eq, ← wordBE_d, ← hd]; exact storesInto_store16 rfl hccr
  all_goals exact encodedMem_of (fun _ => rfl) (fun _ => rfl) (fun _ => rfl)

/-! ### Named transfers and exchanges -/

/-- An instruction of two bytes that may write the CCR from data, and does not: `i_delay` is 0 after it
(92_eei_decisions.md D4). -/
theorem completesInto_armDelay {i : Instr} {s t : State} (hexec : exec i s = .next { t.armDelay s with pc := s.npc 2 })
    (hccr : t.ccr = s.ccr) (hppage : t.ppage = s.ppage) (hdev : t.dev = s.dev) (hmem : t.mem = s.mem) :
    CompletesInto i s { t with iDelay := false, pc := s.npc 2 } :=
  .of (by rw [hexec, State.armDelay, hccr, Bool.and_not_self]) hppage hdev hmem

/-- Settles O24: TAB and TBA are moves with flags, TAP writes the CCR, and the others leave it alone. -/
theorem namedTransfers : Obligations.NamedTransfers := by
  refine ⟨fun s => ⟨completesInto_moved (t := { s with b := s.a }) rfl rfl rfl rfl rfl, rfl,
      completesInto_moved (t := { s with a := s.b }) rfl rfl rfl rfl rfl, rfl⟩,
    fun s => ⟨.of ?tap rfl rfl rfl, rfl, ?tpa, rfl,
      completesInto_armDelay (t := { s with x := s.sp }) rfl rfl rfl rfl rfl, rfl,
      completesInto_armDelay (t := { s with y := s.sp }) rfl rfl rfl rfl rfl, rfl,
      completesInto_armDelay (t := { s with sp := s.x }) rfl rfl rfl rfl rfl, rfl,
      completesInto_armDelay (t := { s with sp := s.y }) rfl rfl rfl rfl rfl, rfl, ?xgdx, rfl, ?xgdy, rfl⟩⟩
  case tap => rw [← Ccr.write_eq]; rfl
  case tpa =>
    rw [← ccr_toByte_eq]
    exact completesInto_armDelay (t := { s with a := s.ccr.toByte }) rfl rfl rfl rfl rfl
  case xgdx =>
    rw [← setD_eq, ← d_eq]
    exact completesInto_armDelay (t := { s.setD s.x with x := s.d }) rfl rfl rfl rfl rfl
  case xgdy =>
    rw [← setD_eq, ← d_eq]
    exact completesInto_armDelay (t := { s.setD s.y with y := s.d }) rfl rfl rfl rfl rfl

end Sys2Proof
end

section
/-! PROOFS. Addition, subtraction, compare, decimal adjust (41_arith.md R200 to R205, R208 to R214, R227 to R233). -/

namespace Sys2Proof

open Sys2Proof.Machine

/-! ### The shapes of an instruction that writes no memory

`f` is what the instruction does before its PC moves on; `hexec` reads it off from the instruction's arm of `exec`. -/

/-- An inherent instruction of `n` bytes that leaves memory alone. -/
theorem completesInto_inherent {i : Instr} {n : Nat} {f : State → State} {s t : State}
    (hf : { f s with pc := s.npc n } = t) (hexec : exec i s = inherent n f s := by dsimp only [exec]; rfl)
    (hppage : t.ppage = s.ppage := by rfl) (hdev : t.dev = s.dev := by rfl) (hmem : t.mem = s.mem := by rfl) :
    CompletesInto i s t :=
  .of (by rw [hexec, inherent, hf]) hppage hdev hmem

/-- An instruction with an 8-bit source that leaves memory alone. -/
theorem completesInto_src8 {i : Instr} {src : Src8} {f : Byte → State → State} {s t : State}
    (hf : let p := s.npc (1 + src.len); { f (src.value p s) (src.side p s) with pc := p } = t)
    (hexec : exec i s = withSrc8 src f s := by dsimp only [exec]; rfl)
    (hppage : t.ppage = (src.side (s.npc (1 + src.len)) s).ppage := by rfl)
    (hdev : t.dev = (src.side (s.npc (1 + src.len)) s).dev := by rfl)
    (hmem : t.mem = (src.side (s.npc (1 + src.len)) s).mem := by rfl) : CompletesInto i s t :=
  .of (by rw [hexec, withSrc8, ← hf]) (hppage.trans (Src8_side_ppage ..)) (hdev.trans (Src8_side_dev ..))
    (hmem.trans (Src8_side_mem ..))

/-- An instruction with a 16-bit source that leaves memory alone. -/
theorem completesInto_src16 {i : Instr} {src : Src16} {f : Word → State → State} {s t : State}
    (hf : let p := s.npc (1 + src.len); { f (src.value p s) (src.side p s) with pc := p } = t)
    (hexec : exec i s = withSrc16 src f s := by dsimp only [exec]; rfl)
    (hppage : t.ppage = (src.side (s.npc (1 + src.len)) s).ppage := by rfl)
    (hdev : t.dev = (src.side (s.npc (1 + src.len)) s).dev := by rfl)
    (hmem : t.mem = (src.side (s.npc (1 + src.len)) s).mem := by rfl) : CompletesInto i s t :=
  .of (by rw [hexec, withSrc16, ← hf]) (hppage.trans (Src16_side_ppage ..)) (hdev.trans (Src16_side_dev ..))
    (hmem.trans (Src16_side_mem ..))

/-! ### Sums and differences -/

theorem addFlags_res {w : Nat} (x y : BitVec w) (k : Bool) :
    (addFlags x y k).res = BitVec.ofNat w (x.toNat + y.toNat + k.toNat) := rfl

/-- The result of `sub_n` as an exact difference (00_scope.md R10). -/
theorem subFlags_res {w : Nat} (x y : BitVec w) (k : Bool) :
    (subFlags x y k).res = BitVec.ofInt w ((x.toNat : Int) - y.toNat - k.toNat) := by
  have hborrow : (BitVec.ofBool k).setWidth w = BitVec.ofNat w k.toNat := by
    apply BitVec.eq_of_toNat_eq; cases k <;> simp
  rw [Int.sub_eq_add_neg, Int.sub_eq_add_neg, BitVec.ofInt_add, BitVec.ofInt_add, BitVec.ofInt_neg, BitVec.ofInt_neg]
  simp only [subFlags, hborrow, BitVec.ofInt_natCast, BitVec.ofNat_toNat, BitVec.setWidth_eq, BitVec.sub_eq_add_neg]

/-- The 16-bit difference without a borrow, as the natural number SUBD is stated with. -/
theorem subFlags_res_word (x y : Word) :
    (subFlags x y false).res = BitVec.ofNat 16 (x.toNat + 65536 - y.toNat) := by
  have hy := y.isLt
  apply BitVec.eq_of_toNat_eq
  simp only [subFlags_res, BitVec.toNat_ofInt, BitVec.toNat_ofNat, Bool.toNat_false]
  omega

/-- D receives a number, mod 2^16. -/
theorem setD_ofNat (s : State) (n : Nat) : s.setD (BitVec.ofNat 16 n) = s.withD n := by
  rw [setD_eq, BitVec.toNat_ofNat, withD_mod]

theorem toNat_ofNat_dNat (s : State) : (BitVec.ofNat 16 s.dNat).toNat = s.dNat := by rw [← d_eq, d_toNat]

theorem hnzvc_eq_summedH (t : State) (x y : Byte) (k : Bool) :
    t.hnzvc (addFlags x y k) = { t with ccr := t.ccr.summedH x y k.toNat } := by
  rw [State.hnzvc, hnzvc_addFlags]

theorem nzvc_eq_summed (t : State) (x y : Word) (k : Bool) :
    t.nzvc (addFlags x y k) = { t with ccr := t.ccr.summed x y k.toNat } := by
  rw [State.nzvc, nzvc_addFlags16]

theorem nzvc_eq_subtracted8 (t : State) (x y : Byte) (k : Bool) :
    t.nzvc (subFlags x y k) = { t with ccr := t.ccr.subtracted x y k.toNat } := by
  rw [State.nzvc, nzvc_subFlags8]

theorem nzvc_eq_subtracted16 (t : State) (x y : Word) (k : Bool) :
    t.nzvc (subFlags x y k) = { t with ccr := t.ccr.subtracted x y k.toNat } := by
  rw [State.nzvc, nzvc_subFlags16]

/-- Reading a source leaves D alone. -/
theorem src16_side_d (src : Src16) (p : Word) (s : State) : (src.side p s).d = BitVec.ofNat 16 s.dNat := by
  rw [← d_eq, State.d, Src16_side_a, Src16_side_b, State.d]

/-- Settles O25: every sum is `addFlags`, of registers that reading the operand leaves alone. -/
theorem additions : Obligations.Additions := by
  intro s
  refine ⟨?add8, ?aba, ?adda, ?addb, ?adca, ?adcb, rfl, ?add16, ?addd⟩
  case add8 =>
    intro src
    refine ⟨completesInto_src8 ?_, completesInto_src8 ?_, completesInto_src8 ?_, completesInto_src8 ?_⟩
    all_goals simp only [hnzvc_eq_summedH, addFlags_res, Bool.toNat_false, Nat.add_zero, Src8_side_a, Src8_side_b,
      Src8_side_ccr]
  case aba =>
    refine completesInto_inherent ?_
    simp only [hnzvc_eq_summedH, addFlags_res, Bool.toNat_false, Nat.add_zero]
  case add16 =>
    intro src
    refine completesInto_src16 ?_
    simp only [nzvc_eq_summed, addFlags_res, setD_ofNat, src16_side_d, toNat_ofNat_dNat, Bool.toNat_false, Nat.add_zero,
      State.withD, Src16_side_ccr]
  case addd => exact encodedSrc16_of (fun _ => rfl) (fun _ => rfl) (fun _ => rfl) (fun _ => rfl)
  case adda | addb | adca | adcb => exact encodedSrc8_of (fun _ => rfl) (fun _ => rfl) (fun _ => rfl) (fun _ => rfl)

/-- Settles O26: every difference is `subFlags`, of registers that reading the operand leaves alone. -/
theorem subtractions : Obligations.Subtractions := by
  intro s
  refine ⟨?sub8, ?sba, ?suba, ?subb, ?sbca, ?sbcb, rfl, ?sub16, ?subd⟩
  case sub8 =>
    intro src
    refine ⟨completesInto_src8 ?_, completesInto_src8 ?_, completesInto_src8 ?_, completesInto_src8 ?_⟩
    all_goals simp only [nzvc_eq_subtracted8, subFlags_res, Bool.toNat_false, Int.natCast_zero, Int.sub_zero,
      Src8_side_a, Src8_side_b, Src8_side_ccr]
  case sba =>
    refine completesInto_inherent ?_
    simp only [nzvc_eq_subtracted8, subFlags_res, Bool.toNat_false, Int.natCast_zero, Int.sub_zero]
  case sub16 =>
    intro src
    refine completesInto_src16 ?_
    simp only [nzvc_eq_subtracted16, subFlags_res_word, setD_ofNat, src16_side_d, toNat_ofNat_dNat, Bool.toNat_false,
      State.withD, Src16_side_ccr]
  case subd => exact encodedSrc16_of (fun _ => rfl) (fun _ => rfl) (fun _ => rfl) (fun _ => rfl)
  case suba | subb | sbca | sbcb => exact encodedSrc8_of (fun _ => rfl) (fun _ => rfl) (fun _ => rfl) (fun _ => rfl)

/-- Settles O27: the flags of `subFlags` alone, after the operand has adjusted its register. -/
theorem comparesWriteFlagsOnly : Obligations.ComparesWriteFlagsOnly := by
  intro s
  refine ⟨?cmp8, completesInto_inherent ?cba, ?cmp16, ?cmpa, ?cmpb, rfl, ?cpd, ?cpx, ?cpy, ?cps⟩
  case cmp8 =>
    intro src
    refine ⟨completesInto_src8 ?_, completesInto_src8 ?_⟩
    all_goals simp only [nzvc_eq_subtracted8, Bool.toNat_false, Src8_side_a, Src8_side_b, Src8_side_ccr]
  case cba => simp only [nzvc_eq_subtracted8, Bool.toNat_false]
  case cmp16 =>
    intro src
    refine ⟨completesInto_src16 ?_, completesInto_src16 ?_, completesInto_src16 ?_, completesInto_src16 ?_⟩
    all_goals simp only [nzvc_eq_subtracted16, Bool.toNat_false, src16_side_d, Src16_side_ccr]
  case cmpa | cmpb => exact encodedSrc8_of (fun _ => rfl) (fun _ => rfl) (fun _ => rfl) (fun _ => rfl)
  case cpd | cpx | cpy | cps => exact encodedSrc16_of (fun _ => rfl) (fun _ => rfl) (fun _ => rfl) (fun _ => rfl)

/-! ### Decimal adjust -/

/-- The corrected carry of DAA: C, or a high digit above 9, or 9 with a low digit above 9 (41_arith.md R214). -/
theorem daaCarry_eq (a : Byte) (c : Bool) :
    daaCarry a c = (decide (9 < a.toNat / 16 ∨ (a.toNat / 16 = 9 ∧ 9 < a.toNat % 16)) || c) := by
  rw [Bool.eq_iff_iff]
  simp only [daaCarry, Bool.or_eq_true, Bool.and_eq_true, decide_eq_true_eq, beq_iff_eq]
  tauto

/-- The correction of DAA: $06 for the low digit, $60 for the high one (41_arith.md R214). -/
theorem add_daaCorrection (a : Byte) (h c : Bool) :
    a + daaCorrection a h c = BitVec.ofNat 8 (a.toNat + (if 9 < a.toNat % 16 ∨ h = true then 6 else 0) +
      (if daaCarry a c = true then 96 else 0)) := by
  have hlow : (h || decide (9 < a.toNat % 16)) = true ↔ 9 < a.toNat % 16 ∨ h = true := by
    rw [Bool.or_eq_true, decide_eq_true_eq, or_comm]
  rw [BitVec.ofNat_add, BitVec.ofNat_add, BitVec.ofNat_toNat, BitVec.setWidth_eq, BitVec.add_assoc,
    apply_ite (BitVec.ofNat 8), apply_ite (BitVec.ofNat 8), ← ite_congr (propext hlow) (fun _ => rfl) (fun _ => rfl)]
  rfl

/-- DAA on every A (41_arith.md R214; outside the table log 22). -/
theorem daa_complete (s : State) :
    let lo := s.a.toNat % 16; let hi := s.a.toNat / 16
    let up := decide (9 < hi ∨ (hi = 9 ∧ 9 < lo)) || s.ccr.c
    let r := BitVec.ofNat 8 (s.a.toNat + (if 9 < lo ∨ s.ccr.h = true then 6 else 0) + (if up = true then 96 else 0))
    CompletesInto .daa s { s with
      a := r, pc := s.npc 2, freeIdx := s.freeIdx + 1,
      ccr := { s.ccr.sign r with v := s.freeBit 0, c := up } } := by
  intro lo hi up r
  have hup : daaCarry s.a s.ccr.c = up := daaCarry_eq s.a s.ccr.c
  have hr : s.a + daaCorrection s.a s.ccr.h s.ccr.c = r := by rw [add_daaCorrection, hup]
  refine completesInto_inherent ?_
  simp only [hup, hr, State.setNzvc, Ccr.setNzvc, isNeg_eq_msb, isZero_eq, State.freeBit, State.drew, Ccr.sign]

/-- The algorithm of DAA on a sum of two numbers of two decimal digits and a carry, `a`, `h` and `c` as ADCA leaves them: the
digits of the result are decimal, and the corrected carry is the hundreds of the sum. -/
theorem bcd_adjust {x y : Byte} (hx : isBcd x = true) (hy : isBcd y = true) (k : Bool) :
    let n := x.toNat + y.toNat + k.toNat
    let a := BitVec.ofNat 8 n
    let h := decide (15 < x.toNat % 16 + y.toNat % 16 + k.toNat)
    let c := decide (2 ^ 8 ≤ n)
    let up := decide (9 < a.toNat / 16 ∨ (a.toNat / 16 = 9 ∧ 9 < a.toNat % 16)) || c
    let r := BitVec.ofNat 8 (a.toNat + (if 9 < a.toNat % 16 ∨ h = true then 6 else 0) + (if up = true then 96 else 0))
    isBcd r = true ∧ bcdNat r + 100 * up.toNat = bcdNat x + bcdNat y + k.toNat := by
  intro n a h c up r
  simp only [isBcd, Bool.and_eq_true, decide_eq_true_eq] at hx hy ⊢
  have hite : ∀ b : Bool, b.toNat = if b = true then 1 else 0 := by decide
  simp only [bcdNat, hite, r, up, c, h, a, n, BitVec.toNat_ofNat, Bool.or_eq_true, decide_eq_true_eq]
  split_ifs <;> omega

/-- Settles O32: after ADCA, `bcd_adjust` applies to what DAA does on every A. -/
theorem decimalAdjust : Obligations.DecimalAdjust := by
  refine ⟨fun s t m ha hm hadd => ?after_adca, fun s => ⟨daa_complete s, rfl⟩⟩
  case after_adca =>
    obtain ⟨hadds, -⟩ := additions s
    obtain ⟨-, -, ⟨hadca, -⟩, -⟩ := hadds (.imm m)
    obtain rfl := Host.Outcome.next.inj (hadd.symm.trans hadca)
    obtain ⟨hdaa, -⟩ := daa_complete _
    obtain ⟨hdigits, hsum⟩ := bcd_adjust ha hm s.ccr.c
    exact ⟨_, hdaa, hdigits, hsum, rfl⟩

end Sys2Proof
end

section
/-! PROOFS. Increment, decrement, test, clear, complement, negate (41_arith.md R206, R207, R215 to R226, R234 to R245), BSET and
BCLR (42_logic_bit_shift.md R269, R270). -/

namespace Sys2Proof

open Sys2Proof.Machine

/-! ### Increments and decrements -/

theorem nzv_increment (t : State) (m : Byte) :
    t.nzv (m + 1) (m == 0x7F) = { t with ccr := { t.ccr.sign (m + 1) with v := overflows 8 (m.toInt + 1) } } := by
  have hv : (m == 0x7F) = overflows 8 (m.toInt + 1) := by revert m; decide
  rw [State.nzv, Ccr.nz_eq, hv]

theorem nzv_decrement (t : State) (m : Byte) :
    t.nzv (m - 1) (m == 0x80) = { t with ccr := { t.ccr.sign (m - 1) with v := overflows 8 (m.toInt - 1) } } := by
  have hv : (m == 0x80) = overflows 8 (m.toInt - 1) := by revert m; decide
  rw [State.nzv, Ccr.nz_eq, hv]

theorem zOnly_eq (t : State) (v : Word) : t.zOnly v = { t with ccr := { t.ccr with z := isZero v } } := by
  rw [State.zOnly, isZero_eq]

/-- The unsigned addition of ABX and ABY. -/
theorem add_zext8 (x : Word) (b : Byte) : x + zext8 b = BitVec.ofNat 16 (x.toNat + b.toNat) := by
  apply BitVec.eq_of_toNat_eq
  simp [zext8_eq]

/-- Settles O29, by the flags of an increment and of a decrement. -/
theorem registerIncrementsAndDecrements : Obligations.RegisterIncrementsAndDecrements := by
  intro s
  refine ⟨completesInto_inherent ?inca, completesInto_inherent ?incb, completesInto_inherent ?deca,
    completesInto_inherent ?decb, completesInto_inherent ?inx, completesInto_inherent ?iny, completesInto_inherent ?dex,
    completesInto_inherent ?dey, completesInto_inherent rfl, completesInto_inherent rfl, completesInto_inherent ?abx,
    completesInto_inherent ?aby, rfl, rfl, rfl, rfl, rfl, rfl, rfl, rfl, rfl, rfl, rfl, rfl⟩
  case inca | incb => simp only [nzv_increment]
  case deca | decb => simp only [nzv_decrement]
  case inx | iny | dex | dey => simp only [zOnly_eq]
  case abx | aby => simp only [add_zext8]

/-! ### Clear, complement, negate, test -/

/-- The flags of a test (`k` = 0) and of a complement (`k` = 1). -/
theorem setNzvc_eq_moved (t : State) (v : Byte) (k : Bool) :
    t.setNzvc v.msb (v == 0) false k = { t with ccr := { t.ccr.moved v with c := k } } := by
  rw [State.setNzvc, Ccr.setNzvc, isNeg_eq_msb, isZero_eq]
  rfl

theorem testFlags_eq (t : State) (m : Byte) : t.testFlags m = { t with ccr := { t.ccr.moved m with c := false } } :=
  setNzvc_eq_moved t m false

theorem comFlags_eq (t : State) (v : Byte) : t.comFlags v = { t with ccr := { t.ccr.moved v with c := true } } :=
  setNzvc_eq_moved t v true

/-- A negation has the flags of subtracting from zero (41_arith.md R243). -/
theorem negFlags_eq (t : State) (m : Byte) : t.negFlags (0 - m) = { t with ccr := t.ccr.subtracted (0 : Byte) m 0 } := by
  have hv : (0 - m == 0x80) = (subFlags 0 m false).v := by revert m; decide
  have hc : (0 - m != 0) = (subFlags 0 m false).c := by revert m; decide
  have hres : 0 - m = (subFlags 0 m false).res := by simp [subFlags]
  have hflags := nzvc_eq_subtracted8 t 0 m false
  rw [Bool.toNat_false] at hflags
  rw [← hflags, State.negFlags, hv, hc, hres]
  rfl

theorem complement_eq (m : Byte) : ~~~m = BitVec.ofNat 8 (255 - m.toNat) := by
  apply BitVec.eq_of_toNat_eq
  rw [BitVec.toNat_not, BitVec.toNat_ofNat]
  omega

theorem negate_eq (m : Byte) : 0 - m = BitVec.ofNat 8 (256 - m.toNat) := by
  apply BitVec.eq_of_toNat_eq
  simp

theorem encodedExt_of {mk : ExtIdx → Instr} {ext idx : Byte} (hext : ∀ a, encode (mk (.ext a)) = ext :: wordBytes a)
    (hidx : ∀ i, encode (mk (.idx i)) = idx :: i.bytes) : EncodedExt mk ext idx :=
  ⟨fun a => by rw [hext, wordBytes_eq], hidx⟩

/-- Settles O31, by the flags of a test, a complement and a negation. -/
theorem accumulatorModifyAndTest : Obligations.AccumulatorModifyAndTest := by
  intro s
  refine ⟨completesInto_inherent rfl, completesInto_inherent rfl, completesInto_inherent ?coma,
    completesInto_inherent ?comb, completesInto_inherent ?nega, completesInto_inherent ?negb,
    completesInto_inherent ?tsta, completesInto_inherent ?tstb, ?tst, rfl, rfl, rfl, rfl, rfl, rfl, rfl, rfl,
    encodedExt_of (fun _ => rfl) (fun _ => rfl)⟩
  case coma | comb => simp only [← complement_eq, comFlags_eq]
  case nega | negb => simp only [← negate_eq, negFlags_eq]
  case tsta | tstb => simp only [testFlags_eq]
  case tst =>
    intro ad p u ea
    have hccr : u.ccr = s.ccr := ExtIdx_side_ccr ad p s
    have hexec : exec (.tst ad) s = .next { (u.touch ea).testFlags (u.readByte ea) with pc := p } := rfl
    rw [testFlags_eq, State.touch_ccr, hccr] at hexec
    exact .of hexec (ExtIdx_side_ppage ad p s) (ExtIdx_side_dev ad p s) (ExtIdx_side_mem ad p s)

/-! ### In-place operations on memory -/

/-- An in-place instruction with an extended or indexed operand: `f` gives the byte stored, `g` the flags. -/
theorem storesInto_extIdx {i : Instr} {ad : ExtIdx} {flags : Byte → State → State} (f : Byte → Byte)
    (g : Byte → Ccr → Ccr) {s u : State} {p ea : Word} (hp : s.npc (1 + ad.len) = p) (hu : ad.side p s = u)
    (hea : ad.ea p s = ea) (hg : ∀ m t, flags m t = { t with ccr := g m t.ccr })
    (hexec : exec i s = withExtIdx ad (modify8 f flags) s := by dsimp only [exec]; rfl) :
    StoresInto i s { u.touch ea with ccr := g (u.readByte ea) s.ccr, pc := p } ea [f (u.readByte ea)] := by
  subst hp hu hea
  obtain ⟨t, ht, hsame, hstored⟩ := withExtIdx_modify (f := f) hg ad s
  exact ⟨t, hexec.trans ht, hsame, hstored⟩

/-- An in-place instruction with a direct, extended or indexed operand and a mask byte after it. -/
theorem storesInto_memOp {i : Instr} {ad : MemOp} {flags : Byte → State → State} (f : Byte → Byte)
    (g : Byte → Ccr → Ccr) {s u : State} {p ea : Word} (hp : s.npc (2 + ad.len) = p) (hu : ad.side p s = u)
    (hea : ad.ea p s = ea) (hg : ∀ m t, flags m t = { t with ccr := g m t.ccr })
    (hexec : exec i s = withMemOp 2 ad (modify8 f flags) s := by dsimp only [exec]; rfl) :
    StoresInto i s { u.touch ea with ccr := g (u.readByte ea) s.ccr, pc := p } ea [f (u.readByte ea)] := by
  subst hp hu hea
  obtain ⟨t, ht, hsame, hstored⟩ := withMemOp_modify (f := f) hg 2 ad s
  exact ⟨t, hexec.trans ht, hsame, hstored⟩

/-- CLR writes its byte without a read (41_arith.md R237). -/
theorem clr_storesInto (s : State) (ad : ExtIdx) :
    let p := s.npc (1 + ad.len); let u := ad.side p s; let ea := ad.ea p s
    StoresInto (.clr ad) s { u with pc := p, ccr := { s.ccr with n := false, z := true, v := false, c := false } } ea
      [0] := by
  intro p u ea
  refine ⟨_, rfl, ?same, (State.writeByte_stored u ea 0).congr rfl rfl rfl rfl rfl rfl rfl rfl rfl rfl⟩
  case same => simp [SameButMemory, State.setNzvc, Ccr.setNzvc, u, p]

theorem logic8_eq (t : State) (v : Byte) : t.logic8 v = { t with ccr := t.ccr.moved v } := by
  rw [State.logic8, Ccr.nzv0_eq]

/-- A memory operand with one byte after it. -/
theorem encodedMem_mask_of {mk : MemOp → Instr} {dir ext idx mm : Byte}
    (hdir : ∀ dd, encode (mk (.dir dd)) = [dir, dd, mm])
    (hext : ∀ a, encode (mk (.ext a)) = ext :: wordBytes a ++ [mm])
    (hidx : ∀ i, encode (mk (.idx i)) = idx :: i.bytes ++ [mm]) : EncodedMem mk dir ext idx [mm] :=
  ⟨hdir, fun a => by rw [hext, wordBytes_eq], hidx⟩

/-- Settles O30: each instruction is one read and one write, CLR the write alone. -/
theorem memoryModifyInstructions : Obligations.MemoryModifyInstructions := by
  refine ⟨fun s ad => ?ext, fun s ad mm => ?mask⟩
  case ext =>
    intro p u ea m r
    rw [← complement_eq, ← negate_eq]
    exact ⟨storesInto_extIdx (fun m => m + 1) (fun m c => { c.sign (m + 1) with v := overflows 8 (m.toInt + 1) })
        rfl rfl rfl fun m t => nzv_increment t m,
      storesInto_extIdx (fun m => m - 1) (fun m c => { c.sign (m - 1) with v := overflows 8 (m.toInt - 1) })
        rfl rfl rfl fun m t => nzv_decrement t m,
      clr_storesInto s ad,
      storesInto_extIdx (fun m => ~~~m) (fun m c => { c.moved (~~~m) with c := true })
        rfl rfl rfl fun m t => comFlags_eq t (~~~m),
      storesInto_extIdx (fun m => 0 - m) (fun m c => c.subtracted 0 m 0)
        rfl rfl rfl fun m t => negFlags_eq t m,
      encodedExt_of (fun _ => rfl) (fun _ => rfl), encodedExt_of (fun _ => rfl) (fun _ => rfl),
      encodedExt_of (fun _ => rfl) (fun _ => rfl), encodedExt_of (fun _ => rfl) (fun _ => rfl),
      encodedExt_of (fun _ => rfl) (fun _ => rfl)⟩
  case mask =>
    intro p u ea m r
    exact ⟨storesInto_memOp (fun m => m ||| mm) (fun m c => c.moved (m ||| mm))
        rfl rfl rfl fun m t => logic8_eq t (m ||| mm),
      storesInto_memOp (fun m => m &&& ~~~mm) (fun m c => c.moved (m &&& ~~~mm))
        rfl rfl rfl fun m t => logic8_eq t (m &&& ~~~mm),
      encodedMem_mask_of (fun _ => rfl) (fun _ => rfl) (fun _ => rfl),
      encodedMem_mask_of (fun _ => rfl) (fun _ => rfl) (fun _ => rfl)⟩

end Sys2Proof
end

section
/-! PROOFS. Boolean logic, shifts and rotates (42_logic_bit_shift.md R261 to R268, R279 to R300). -/

namespace Sys2Proof

open Sys2Proof.Machine

/-! ### Boolean logic -/

/-- Settles O33: each result goes through `logic8`, and reading the operand leaves A, B and the CCR alone. -/
theorem booleanLogic : Obligations.BooleanLogic := by
  intro s src
  refine ⟨completesInto_src8 ?anda, completesInto_src8 ?andb, completesInto_src8 ?oraa, completesInto_src8 ?orab,
    completesInto_src8 ?eora, completesInto_src8 ?eorb, completesInto_src8 ?bita, completesInto_src8 ?bitb,
    ?_, ?_, ?_, ?_, ?_, ?_, ?_, ?_⟩
  case anda | oraa | eora | bita => simp only [logic8_eq, Src8_side_a, Src8_side_ccr]
  case andb | orab | eorb | bitb => simp only [logic8_eq, Src8_side_b, Src8_side_ccr]
  all_goals exact encodedSrc8_of (fun _ => rfl) (fun _ => rfl) (fun _ => rfl) (fun _ => rfl)

/-! ### The five movements as arithmetic (42_logic_bit_shift.md R279) -/

/-- `f`, which may take C in from the state, moves a value as `k` says: the result and the bit shifted out. -/
def Moves {w : Nat} (f : State → BitVec w → Shift w) (k : ShiftKind) : Prop :=
  ∀ t v, f t v = ⟨k.res t.ccr.c v, k.out v⟩

/-- The top bit is the carry out of doubling, at every width. -/
theorem msb_eq_carry_of_double {w : Nat} (v : BitVec w) : v.msb = decide (2 ^ w ≤ 2 * v.toNat) := by
  have hv := v.isLt
  rw [BitVec.msb_eq_decide, decide_eq_decide]
  cases w with
  | zero => omega
  | succ n => rw [Nat.add_sub_cancel, pow_succ]; omega

theorem moves_shl {w : Nat} : Moves (w := w) (fun _ => shl) .left := fun t v =>
  congrArg₂ Shift.mk (shl_res v t.ccr.c) (msb_eq_carry_of_double v)

theorem moves_asr {w : Nat} : Moves (w := w) (fun _ => asr) .arithmeticRight := fun t v =>
  congrArg₂ Shift.mk (asr_res v t.ccr.c) (odd_out v)

theorem moves_lsr {w : Nat} : Moves (w := w) (fun _ => lsr) .logicalRight := fun t v =>
  congrArg₂ Shift.mk (lsr_res v t.ccr.c) (odd_out v)

theorem moves_rol : Moves (w := 8) (fun u => rol u.ccr.c) .rotateLeft := fun t v =>
  congrArg₂ Shift.mk (rol_res8 v t.ccr.c) (msb_eq_carry_of_double v)

theorem moves_ror : Moves (w := 8) (fun u => ror u.ccr.c) .rotateRight := fun t v =>
  congrArg₂ Shift.mk (ror_res8 v t.ccr.c) (odd_out v)

/-- The flags of a movement. -/
theorem shiftFlags_eq_shifted {w : Nat} (t : State) (r : Shift w) :
    t.shiftFlags r = { t with ccr := t.ccr.shifted r.res r.cout } := by
  rw [State.shiftFlags, State.setNzvc, shiftFlags_eq]

/-! ### Shifts of a register -/

theorem shiftsA_of {k : ShiftKind} {f : State → Byte → Shift 8} {i : Instr} {op : Byte} (hf : Moves f k) (s : State)
    (hexec : exec i s = inherent 1 (shiftA f) s := by dsimp only [exec]; rfl) (hbytes : encode i = [op] := by rfl) :
    ShiftsA k s i op :=
  ⟨completesInto_inherent (by rw [shiftA, shiftFlags_eq_shifted, hf]) hexec, hbytes⟩

theorem shiftsB_of {k : ShiftKind} {f : State → Byte → Shift 8} {i : Instr} {op : Byte} (hf : Moves f k) (s : State)
    (hexec : exec i s = inherent 1 (shiftB f) s := by dsimp only [exec]; rfl) (hbytes : encode i = [op] := by rfl) :
    ShiftsB k s i op :=
  ⟨completesInto_inherent (by rw [shiftB, shiftFlags_eq_shifted, hf]) hexec, hbytes⟩

theorem shiftsD_of {k : ShiftKind} {f : State → Word → Shift 16} {i : Instr} {op : Byte} (hf : Moves f k) (s : State)
    (hexec : exec i s = inherent 1 (shiftD f) s := by dsimp only [exec]; rfl) (hbytes : encode i = [op] := by rfl) :
    ShiftsD k s i op :=
  ⟨completesInto_inherent (by rw [shiftD, shiftFlags_eq_shifted, hf, setD_eq, d_eq]; rfl) hexec, hbytes⟩

/-- Settles O35: each instruction is one of the five movements, of A, of B or of D. -/
theorem accumulatorShifts : Obligations.AccumulatorShifts := fun s =>
  ⟨shiftsA_of moves_shl s, shiftsB_of moves_shl s, shiftsA_of moves_shl s, shiftsB_of moves_shl s,
    shiftsA_of moves_asr s, shiftsB_of moves_asr s, shiftsA_of moves_lsr s, shiftsB_of moves_lsr s,
    shiftsA_of moves_rol s, shiftsB_of moves_rol s, shiftsA_of moves_ror s, shiftsB_of moves_ror s,
    shiftsD_of moves_shl s, shiftsD_of moves_shl s, shiftsD_of moves_lsr s⟩

/-! ### Shifts of a byte in memory -/

/-- A shift in memory is in place (42_logic_bit_shift.md R260(d)): C comes in as it was before the operand was read. -/
theorem withExtIdx_shiftMem {k : ShiftKind} {f : State → Byte → Shift 8} (hf : Moves f k) (ad : ExtIdx) (s : State) :
    withExtIdx ad (shiftMem f) s = withExtIdx ad (modify8 (k.res s.ccr.c)
      fun m t => { t with ccr := t.ccr.shifted (k.res s.ccr.c m) (k.out m) }) s := by
  simp only [withExtIdx, shiftMem, shiftFlags_eq_shifted, hf _ _, ExtIdx_side_ccr]

theorem shiftsMemory_of {k : ShiftKind} {f : State → Byte → Shift 8} {mk : ExtIdx → Instr} {ext idx : Byte}
    (hf : Moves f k) (s : State) (ad : ExtIdx)
    (hexec : exec (mk ad) s = withExtIdx ad (shiftMem f) s := by dsimp only [exec]; rfl)
    (hext : ∀ a, encode (mk (.ext a)) = ext :: wordBytes a := by exact fun _ => rfl)
    (hidx : ∀ i, encode (mk (.idx i)) = idx :: i.bytes := by exact fun _ => rfl) :
    ShiftsMemory k s mk ad ext idx :=
  ⟨storesInto_extIdx (k.res s.ccr.c) (fun m c => c.shifted (k.res s.ccr.c m) (k.out m)) rfl rfl rfl (fun _ _ => rfl)
      (hexec.trans (withExtIdx_shiftMem hf ad s)),
    encodedExt_of hext hidx⟩

/-- Settles O36: the movements of O35, on the byte at the effective address. -/
theorem memoryShifts : Obligations.MemoryShifts := fun s ad =>
  ⟨shiftsMemory_of moves_shl s ad, shiftsMemory_of moves_shl s ad, shiftsMemory_of moves_asr s ad,
    shiftsMemory_of moves_lsr s ad, shiftsMemory_of moves_rol s ad, shiftsMemory_of moves_ror s ad⟩

end Sys2Proof
end

section
/-! PROOFS. Products and the 32-bit sum (43_muldiv.md R322, R323, R324, R330), divisions without a defined quotient
(43_muldiv.md R325 to R329). -/

namespace Sys2Proof

open Sys2Proof.Machine

/-! ### Division by zero and overflow -/

/-- What is left of a state after a division by zero (93_implementation_defined.md U2). -/
theorem divideByZero_eq (t : State) : t.divideByZero =
    { t with
      ccr := { t.ccr with n := t.freeBit 0, z := t.freeBit 1, v := t.freeBit 2, c := true }, freeIdx := t.freeIdx + 3 } :=
  rfl

/-- What is left of a state after an overflow (93_implementation_defined.md U2). -/
theorem divideOverflow_eq (t : State) : t.divideOverflow =
    { t with
      ccr := { t.ccr with n := t.freeBit 0, z := t.freeBit 1, v := true, c := false }, freeIdx := t.freeIdx + 2 } :=
  rfl

/-- The quotient $FFFF, and D a free value (93_implementation_defined.md U8). -/
theorem quotientSaturated_eq (t : State) : t.quotientSaturated =
    { t.withD (t.freeWord 0).toNat with x := 0xFFFF, freeIdx := t.freeIdx + 1 } := by
  rw [State.quotientSaturated, setD_eq]
  rfl

/-- EDIV, EDIVS and IDIVS by zero: C set, the registers kept (43_muldiv.md R325, R326, R329). -/
theorem divideByZero_complete {s : State} (hx : s.x = 0) :
    let t := { s with
      ccr := { s.ccr with n := s.freeBit 0, z := s.freeBit 1, v := s.freeBit 2, c := true }, freeIdx := s.freeIdx + 3 }
    CompletesInto .ediv s { t with pc := s.npc 1 } ∧ CompletesInto .edivs s { t with pc := s.npc 2 } ∧
    CompletesInto .idivs s { t with pc := s.npc 2 } := by
  have hnat : s.x.toNat = 0 := by rw [hx]; rfl
  have hint : s.x.toInt = 0 := by rw [hx]; rfl
  refine ⟨completesInto_inherent ?ediv, completesInto_inherent ?edivs, completesInto_inherent ?idivs⟩
  case ediv => simp only [if_pos hnat, divideByZero_eq]
  case edivs | idivs => simp only [if_pos hint, divideByZero_eq]

/-- FDIV answers $FFFF where the divisor is not above the dividend; C says that it is zero (43_muldiv.md R327). -/
theorem fdiv_saturates {s : State} (hn : s.x.toNat ≤ s.dNat) :
    CompletesInto .fdiv s { s.withD (s.freeWord 0).toNat with
      x := 0xFFFF, freeIdx := s.freeIdx + 1, pc := s.npc 2,
      ccr := { s.ccr with z := false, v := true, c := decide (s.x.toNat = 0) } } := by
  refine completesInto_inherent ?_
  simp only [d_toNat, if_pos hn, quotientSaturated_eq, State.setZvc, State.withD]

/-- IDIV by zero answers $FFFF (43_muldiv.md R328). -/
theorem idiv_saturates {s : State} (hx : s.x.toNat = 0) :
    CompletesInto .idiv s { s.withD (s.freeWord 0).toNat with
      x := 0xFFFF, freeIdx := s.freeIdx + 1, pc := s.npc 2, ccr := { s.ccr with z := false, v := false, c := true } } := by
  refine completesInto_inherent ?_
  simp only [if_pos hx, quotientSaturated_eq, State.setZvc, State.withD]

/-- The quotient of EDIV does not fit 16 bits (43_muldiv.md R325). -/
theorem ediv_overflows {s : State} (hx : s.x ≠ 0) (hn : 65536 * s.x.toNat ≤ 65536 * s.y.toNat + s.dNat) :
    CompletesInto .ediv s { s with
      ccr := { s.ccr with n := s.freeBit 0, z := s.freeBit 1, v := true, c := false }, freeIdx := s.freeIdx + 2,
      pc := s.npc 1 } := by
  have hpos := BitVec.toNat_pos_of_ne_zero hx
  have hq : 65536 ≤ (65536 * s.y.toNat + s.dNat) / s.x.toNat := (Nat.le_div_iff_mul_le hpos).2 hn
  refine completesInto_inherent ?_
  simp only [yd_toNat, if_neg hpos.ne', if_pos (Nat.lt_of_succ_le hq), divideOverflow_eq]

/-- The quotient of EDIVS does not fit 16 signed bits (43_muldiv.md R326). -/
theorem edivs_overflows {s : State} (hx : s.x ≠ 0) {q : Int}
    (hq : (s.y ++ BitVec.ofNat 16 s.dNat).toInt.tdiv s.x.toInt = q) (hover : q < -32768 ∨ 32767 < q) :
    CompletesInto .edivs s { s with
      ccr := { s.ccr with n := s.freeBit 0, z := s.freeBit 1, v := true, c := false }, freeIdx := s.freeIdx + 2,
      pc := s.npc 2 } := by
  have hdivisor : s.x.toInt ≠ 0 := BitVec.toInt_ne.mpr hx
  refine completesInto_inherent ?_
  simp only [yd_eq, hq, if_neg hdivisor, if_pos hover.symm, divideOverflow_eq]

/-- The one overflow of IDIVS, -32768 / -1 (43_muldiv.md R329; log 16). -/
theorem idivs_overflows {s : State} (hx : s.x = 0xFFFF) (hd : s.dNat = 0x8000) :
    CompletesInto .idivs s { s.withD Config.idivsOverflowD.toNat with
      x := Config.idivsOverflowX, ccr := { s.ccr with n := s.freeBit 0, z := s.freeBit 1, v := true, c := false },
      freeIdx := s.freeIdx + 2, pc := s.npc 2 } := by
  have hdividend : s.d.toInt = -32768 := by rw [d_eq, hd]; rfl
  have hdivisor : s.x.toInt = -1 := by rw [hx]; rfl
  have hquot : (-32768 : Int).tdiv (-1) = 32768 := by decide
  refine completesInto_inherent ?_
  simp only [hdividend, hdivisor, hquot]
  rw [if_neg (by decide), if_pos (by decide), divideOverflow_eq, setD_eq]
  rfl

/-- Settles O40, from the divisions by zero and the four overflows; FDIV by zero and FDIV overflow are one case. -/
theorem divisionByZeroAndOverflow : Obligations.DivisionByZeroAndOverflow := by
  intro s n dz ovf lost
  refine ⟨fun hx => ?zero, fun hx hn => ?fdiv, ediv_overflows, fun hx => edivs_overflows hx rfl, idivs_overflows⟩
  case zero =>
    obtain ⟨hediv, hedivs, hidivs⟩ := divideByZero_complete hx
    have hnat : s.x.toNat = 0 := by rw [hx]; rfl
    have hfdiv := fdiv_saturates (s := s) (by omega)
    rw [decide_eq_true hnat] at hfdiv
    exact ⟨hediv, hedivs, hidivs, idiv_saturates hnat, hfdiv⟩
  case fdiv =>
    have hfdiv := fdiv_saturates hn
    rwa [decide_eq_false (BitVec.toNat_pos_of_ne_zero hx).ne'] at hfdiv

/-! ### Products -/

/-- Bit `k` is the top bit of the value mod 2^(k + 1). -/
theorem getLsbD_eq_decide {w : Nat} (v : BitVec w) (k : Nat) :
    v.getLsbD k = decide (2 ^ k ≤ v.toNat % 2 ^ (k + 1)) := by
  have hmsb : (v.setWidth (k + 1)).msb = v.getLsbD k := by simp [BitVec.msb_setWidth]
  rw [← hmsb, BitVec.msb_eq_decide, BitVec.toNat_setWidth, Nat.add_sub_cancel]

theorem hiWord_eq (v : BitVec 32) : hiWord v = BitVec.ofNat 16 (v.toNat / 65536) := by
  rw [hiWord, BitVec.extractLsb', Nat.shiftRight_eq_div_pow]

theorem loWord_eq (v : BitVec 32) : loWord v = BitVec.ofNat 16 v.toNat := by
  rw [loWord, BitVec.extractLsb', Nat.shiftRight_zero]

/-- What EMUL and EMULS leave of a product (43_muldiv.md R323, R324). -/
theorem setProduct_eq (t : State) (p : BitVec 32) : t.setProduct p =
    { t.withD p.toNat with
      y := BitVec.ofNat 16 (p.toNat / 65536),
      ccr := { t.ccr with n := isNeg p, z := isZero p, c := decide (32768 ≤ p.toNat % 65536) } } := by
  rw [State.setProduct, State.setYD, hiWord_eq, loWord_eq, setD_ofNat, isNeg_eq_msb, isZero_eq, getLsbD_eq_decide]
  rfl

/-- A product of two words is a 32-bit value. -/
theorem word_product_toNat (s : State) :
    (BitVec.ofNat 32 (s.dNat * s.y.toNat)).toNat = s.dNat * s.y.toNat := by
  have hd : s.dNat < 2 ^ 16 := by rw [← d_toNat]; exact s.d.isLt
  rw [BitVec.toNat_ofNat]
  exact Nat.mod_eq_of_lt ((Nat.mul_lt_mul'' hd s.y.isLt).trans_eq (by decide))

theorem isNeg_eq_decide_toNat (v : BitVec 32) : isNeg v = decide (2 ^ 31 ≤ v.toNat) := by
  rw [← isNeg_eq_msb, BitVec.msb_eq_decide]

theorem mul_complete (s : State) :
    let p := s.a.toNat * s.b.toNat
    CompletesInto .mul s { s.withD p with ccr := { s.ccr with c := decide (128 ≤ p % 256) }, pc := s.npc 1 } := by
  intro p
  refine completesInto_inherent ?_
  have hbit : (BitVec.ofNat 16 p).getLsbD 7 = decide (128 ≤ p % 256) := by
    rw [getLsbD_eq_decide, BitVec.toNat_ofNat, Nat.mod_mod_of_dvd p (by decide)]
    rfl
  simp only [setD_ofNat, hbit, p]

theorem emul_complete (s : State) :
    let q := s.dNat * s.y.toNat
    CompletesInto .emul s { s.withD q with
      y := BitVec.ofNat 16 (q / 65536), pc := s.npc 1,
      ccr := { s.ccr with n := decide (2 ^ 31 ≤ q), z := decide (q = 0), c := decide (32768 ≤ q % 65536) } } := by
  intro q
  refine completesInto_inherent ?_
  simp only [setProduct_eq, d_toNat, isNeg_eq_decide_toNat, isZero, word_product_toNat, q]

theorem emuls_complete (s : State) :
    let r := (BitVec.ofInt 32 ((BitVec.ofNat 16 s.dNat).toInt * s.y.toInt))
    CompletesInto .emuls s { s.withD r.toNat with
      y := BitVec.ofNat 16 (r.toNat / 65536), pc := s.npc 2,
      ccr := { s.ccr with n := isNeg r, z := isZero r, c := decide (32768 ≤ r.toNat % 65536) } } := by
  intro r
  refine completesInto_inherent ?_
  simp only [setProduct_eq, d_eq, r]

/-! ### Multiply and accumulate -/

/-- A 32-bit number in memory: the word at `a`, then the word at `a + 2` (20_memory.md R61, R64). -/
theorem readLong_eq (s : State) (a : Word) : s.readLong a =
    BitVec.ofNat 32 (65536 * (s.readWord a).toNat + ((s.touchWord a).readWord (a + 2)).toNat) := by
  have hlo := ((s.touchWord a).readWord (a + 2)).isLt
  apply BitVec.eq_of_toNat_eq
  rw [State.readLong, BitVec.toNat_append, ← Nat.shiftLeft_add_eq_or_of_lt hlo, Nat.shiftLeft_eq, BitVec.toNat_ofNat]
  have hhi := (s.readWord a).isLt
  omega

/-- The sum of two's complement numbers, at every width. -/
theorem add_eq_ofInt {w : Nat} (x y : BitVec w) : x + y = BitVec.ofInt w (x.toInt + y.toInt) := by
  rw [BitVec.ofInt_add, BitVec.ofInt_toInt, BitVec.ofInt_toInt]

/-- Signed overflow of a sum, at every width: the summands agree in sign and the sum does not (10_state.md R32). -/
theorem add_overflow_eq {w : Nat} (x y : BitVec w) :
    (x.msb == y.msb && (x + y).msb != x.msb) = overflows w (x.toInt + y.toInt) := by
  rw [bne, ← BitVec.saddOverflow_eq, BitVec.saddOverflow, Bool.or_comm, ← Bool.decide_or]
  rfl

/-- A store of a 32-bit number, the high-order word lower (20_memory.md R61). -/
theorem storesInto_writeLong {i : Instr} {s u : State} {a p : Word} {v : BitVec 32} {c : Ccr}
    (hexec : exec i s = .next { u.writeLong a v with pc := p, ccr := c }) :
    StoresInto i s { u with pc := p, ccr := c } a
      (wordBE (BitVec.ofNat 16 (v.toNat / 65536)) ++ wordBE (BitVec.ofNat 16 v.toNat)) := by
  rw [← hiWord_eq, ← loWord_eq, wordBE_eq, wordBE_eq]
  refine ⟨_, hexec, ?same, (State.writeLong_stored u a v).congr rfl rfl rfl rfl rfl rfl rfl rfl rfl rfl⟩
  case same => simp [SameButMemory]

/-- EMACS as one state: the reads in their order, then the write, then the flags (43_muldiv.md R330). -/
theorem execEmacs_eq {s s1 s2 : State} {a : Word} {acc i : BitVec 32} (hx : s.touchWord s.x = s1)
    (hy : s1.touchWord s.y = s2) (hi : BitVec.ofInt 32 ((s.readWord s.x).toInt * (s1.readWord s.y).toInt) = i)
    (hacc : s2.readLong a = acc) :
    let r := BitVec.ofInt 32 (acc.toInt + i.toInt)
    execEmacs a s = .next { (s2.touchLong a).writeLong a r with
      pc := s.npc 4,
      ccr := { s.ccr.sign r with
        v := overflows 32 (acc.toInt + i.toInt), c := decide (65536 ≤ acc.toNat % 65536 + i.toNat % 65536) } } := by
  intro r
  have hr : acc + i = r := add_eq_ofInt acc i
  have hv := add_overflow_eq acc i
  have hccr : ((s2.touchLong a).writeLong a r).ccr = s.ccr := by simp [← hy, ← hx]
  rw [hr] at hv
  rw [← Ccr.nz_eq, ← hv]
  simp only [execEmacs, inherent, hx, hy, hi, hacc, hr, hccr, State.setNzvc, Ccr.setNzvc, Ccr.nz]

theorem emacs_storesInto (s : State) (a : Word) :
    let s1 := s.touchWord s.x; let s2 := s1.touchWord s.y; let s3 := s2.touchWord a
    let i := BitVec.ofInt 32 ((s.readWord s.x).toInt * (s1.readWord s.y).toInt)
    let acc := BitVec.ofNat 32 (65536 * (s2.readWord a).toNat + (s3.readWord (a + 2)).toNat)
    let r := BitVec.ofInt 32 (acc.toInt + i.toInt)
    StoresInto (.emacs a) s { s3.touchWord (a + 2) with
      pc := s.npc 4,
      ccr := { s.ccr.sign r with
        v := overflows 32 (acc.toInt + i.toInt), c := decide (65536 ≤ acc.toNat % 65536 + i.toNat % 65536) } } a
      (wordBE (BitVec.ofNat 16 (r.toNat / 65536)) ++ wordBE (BitVec.ofNat 16 r.toNat)) := by
  intro s1 s2 s3 i acc r
  exact storesInto_writeLong (execEmacs_eq (acc := acc) (i := i) rfl rfl rfl (readLong_eq s2 a))

/-- Settles O37, from the three products and `emacs_storesInto`. -/
theorem productsAndAccumulate : Obligations.ProductsAndAccumulate :=
  ⟨fun s => ⟨mul_complete s, emul_complete s, emuls_complete s, rfl, rfl, rfl⟩,
    fun s a => ⟨emacs_storesInto s a, congrArg ([0x18, 0x12] ++ ·) (wordBytes_eq a)⟩⟩

end Sys2Proof
end

section
/-! PROOFS. Minimum and maximum, and MEM (44_fuzzy_minmax_table.md R342, R354 to R362). -/

namespace Sys2Proof

open Sys2Proof.Machine

/-! ### Minimum and maximum -/

/-- With a borrow the subtrahend is the larger value (44_fuzzy_minmax_table.md R354). -/
theorem larger_by_borrow {w : Nat} (x y : BitVec w) :
    (if (subFlags x y false).c then y else x) = BitVec.ofNat w (max x.toNat y.toNat) := by
  have hc : (subFlags x y false).c = decide (x.toNat < y.toNat) := rfl
  rw [hc]
  by_cases hlt : x.toNat < y.toNat
  · rw [decide_eq_true hlt, if_pos rfl, max_eq_right hlt.le, BitVec.ofNat_toNat, BitVec.setWidth_eq]
  · rw [decide_eq_false hlt, if_neg Bool.false_ne_true, max_eq_left (not_lt.1 hlt), BitVec.ofNat_toNat, BitVec.setWidth_eq]

/-- With a borrow the minuend is the smaller value (44_fuzzy_minmax_table.md R354). -/
theorem smaller_by_borrow {w : Nat} (x y : BitVec w) :
    (if (subFlags x y false).c then x else y) = BitVec.ofNat w (min x.toNat y.toNat) := by
  have hc : (subFlags x y false).c = decide (x.toNat < y.toNat) := rfl
  rw [hc]
  by_cases hlt : x.toNat < y.toNat
  · rw [decide_eq_true hlt, if_pos rfl, min_eq_left hlt.le, BitVec.ofNat_toNat, BitVec.setWidth_eq]
  · rw [decide_eq_false hlt, if_neg Bool.false_ne_true, min_eq_right (not_lt.1 hlt), BitVec.ofNat_toNat, BitVec.setWidth_eq]

/-- Forming an address leaves D alone. -/
theorem idx_side_d (i : Idx) (p : Word) (s : State) : (i.side p s).d = BitVec.ofNat 16 s.dNat := by
  rw [← d_eq, State.d, Idx_side_a, Idx_side_b, State.d]

/-- The value kept in the accumulator, the flags of a subtraction written. -/
theorem completesInto_subtracted {w : Nat} {i : Instr} {s t : State} {x y : BitVec w} {c : Ccr} {p : Word}
    (hexec : exec i s = .next { t.nzvc (subFlags x y false) with pc := p })
    (hc : t.ccr.nzvc (subFlags x y false) = c) (hppage : t.ppage = s.ppage)
    (hdev : t.dev = s.dev) (hmem : t.mem = s.mem) : CompletesInto i s { t with ccr := c, pc := p } :=
  .of (by rw [hexec, State.nzvc, hc]) hppage hdev hmem

/-- The byte kept is written over the operand, the flags of a subtraction written. -/
theorem storesInto_subtracted8 {i : Instr} {s u : State} {ea p : Word} {v x y : Byte} {c : Ccr}
    (hexec : exec i s = .next { ((u.touch ea).writeByte ea v).nzvc (subFlags x y false) with pc := p })
    (hc : u.ccr.nzvc (subFlags x y false) = c) :
    StoresInto i s { u.touch ea with ccr := c, pc := p } ea [v] := by
  refine ⟨_, hexec, ?same, (State.writeByte_stored (u.touch ea) ea v).congr rfl rfl rfl rfl rfl rfl rfl rfl rfl rfl⟩
  case same => simp [State.nzvc, hc]

/-- The word kept is written over the operand, the flags of a subtraction written. -/
theorem storesInto_subtracted16 {i : Instr} {s u : State} {ea p v x y : Word} {c : Ccr}
    (hexec : exec i s = .next { ((u.touchWord ea).writeWord ea v).nzvc (subFlags x y false) with pc := p })
    (hc : u.ccr.nzvc (subFlags x y false) = c) :
    StoresInto i s { u.touchWord ea with ccr := c, pc := p } ea (wordBE v) := by
  rw [wordBE_eq]
  refine ⟨_, hexec, ?same, (State.writeWord_stored (u.touchWord ea) ea v).congr rfl rfl rfl rfl rfl rfl rfl rfl rfl rfl⟩
  case same => simp [State.nzvc, hc]

/-- Settles O45: the borrow of the internal subtraction selects the value kept, and its flags are those written. -/
theorem minimumAndMaximum : Obligations.MinimumAndMaximum := by
  intro s i p u ea m w u1 u2 d f g
  have ha : u.a = s.a := Idx_side_a i p s
  have hd : u.d = d := idx_side_d i p s
  have hdNat : d.toNat = s.dNat := toNat_ofNat_dNat s
  have hppage : u.ppage = s.ppage := Idx_side_ppage i p s
  have hdev : u.dev = s.dev := Idx_side_dev i p s
  have hmem : u.mem = s.mem := Idx_side_mem i p s
  have hf : u.ccr.nzvc (subFlags u.a m false) = f := by
    rw [nzvc_subFlags8, show u.ccr = s.ccr from Idx_side_ccr i p s, ha]; rfl
  have hg : u.ccr.nzvc (subFlags u.d w false) = g := by
    rw [nzvc_subFlags16, show u.ccr = s.ccr from Idx_side_ccr i p s, hd]; rfl
  refine ⟨?maxa, ?mina, ?maxm, ?minm, ?emaxd, ?emind, ?emaxm, ?eminm, rfl, rfl, rfl, rfl, rfl, rfl, rfl, rfl⟩
  case maxa =>
    rw [← ha, ← larger_by_borrow]
    exact completesInto_subtracted (t := { u1 with a := _ }) rfl hf hppage hdev hmem
  case mina =>
    rw [← ha, ← smaller_by_borrow]
    exact completesInto_subtracted (t := { u1 with a := _ }) rfl hf hppage hdev hmem
  case maxm =>
    rw [← ha, ← larger_by_borrow]
    exact storesInto_subtracted8 rfl hf
  case minm =>
    rw [← ha, ← smaller_by_borrow]
    exact storesInto_subtracted8 rfl hf
  case emaxd =>
    rw [← hdNat, ← setD_ofNat, ← larger_by_borrow, ← hd]
    exact completesInto_subtracted (t := u2.setD _) rfl hg hppage hdev hmem
  case emind =>
    rw [← hdNat, ← setD_ofNat, ← smaller_by_borrow, ← hd]
    exact completesInto_subtracted (t := u2.setD _) rfl hg hppage hdev hmem
  case emaxm =>
    rw [← hdNat, ← larger_by_borrow, ← hd]
    exact storesInto_subtracted16 rfl hg
  case eminm =>
    rw [← hdNat, ← smaller_by_borrow, ← hd]
    exact storesInto_subtracted16 rfl hg

/-! ### MEM -/

/-- The grade of membership by cases: outside, on the left slope, on the right slope, at the top
(44_fuzzy_minmax_table.md R342). -/
theorem membershipGrade_eq (a p1 p2 s1 s2 : Byte) : membershipGrade a p1 p2 s1 s2 = BitVec.ofNat 8
    (if a.toNat < p1.toNat ∨ p2.toNat < a.toNat then 0
      else if s1.toNat ≠ 0 ∧ s1.toNat * (a.toNat - p1.toNat) ≤ 255 then s1.toNat * (a.toNat - p1.toNat)
      else if s2.toNat ≠ 0 ∧ s2.toNat * (p2.toNat - a.toNat) ≤ 255 then s2.toNat * (p2.toNat - a.toNat) else 255) := by
  have hzero : ∀ v : Byte, (v == 0) = decide (v.toNat = 0) := isZero_eq
  simp only [membershipGrade, hzero, ← Bool.decide_or]
  by_cases hout : a.toNat < p1.toNat ∨ p2.toNat < a.toNat
  · simp only [hout, decide_true, Bool.not_true, Bool.and_false, Bool.false_eq_true, if_true, if_false]
  · simp only [hout, decide_false, Bool.not_false, Bool.and_true, decide_eq_true_eq, Bool.false_eq_true, if_false]
    congr 1
    split_ifs <;> omega

/-- MEM as one state: the four reads in their order, then the grade written (44_fuzzy_minmax_table.md R342). -/
theorem execMem_eq {s r1 r2 r3 r4 : State} {g : Byte} (h1 : s.touch s.x = r1) (h2 : r1.touch (s.x + 1) = r2)
    (h3 : r2.touch (s.x + 2) = r3) (h4 : r3.touch (s.x + 3) = r4)
    (hg : membershipGrade s.a (s.readByte s.x) (r1.readByte (s.x + 1)) (r2.readByte (s.x + 2))
      (r3.readByte (s.x + 3)) = g) :
    execMem s = .next { ({ r4.writeByte s.y g with x := s.x + 4, y := s.y + 1 } : State).freeHnzvc with
      pc := s.npc 1 } := by
  have hx : s.x + 2 + 1 = s.x + 3 := by bv_omega
  simp only [execMem, inherent, State.readWord, State.touchWord, hiByte_word, loByte_word, hx, h1, h2, h3, h4, hg]

/-- Settles O41, by `membershipGrade_eq` and the one byte written. -/
theorem membershipGrade : Obligations.MembershipGrade := by
  intro s r1 r2 r3 r4 p1 p2 s1 s2 grade
  refine ⟨⟨_, execMem_eq rfl rfl rfl rfl (membershipGrade_eq ..), ?same, ?stored⟩, rfl⟩
  case same => simp [State.freeBit, r4, r3, r2, r1]
  case stored =>
    exact (State.writeByte_stored r4 s.y (BitVec.ofNat 8 grade)).congr rfl rfl rfl rfl rfl rfl rfl rfl rfl rfl

end Sys2Proof
end

section
/-! PROOFS. One rule element of REV and REVW (44_fuzzy_minmax_table.md R344 to R347). -/

namespace Sys2Proof

open Sys2Proof.Machine

/-! ### Antecedents and consequents

`t` is the state in which the element is applied, `f` the fuzzy value read at `fa`, and `free` leaves the undefined flags. -/

section
variable {i : Instr} {s t : State} {free : State → State} {fa : Word} {f : Byte}

/-- An antecedent lowers A to the fuzzy input (44_fuzzy_minmax_table.md R344, R346). -/
theorem completesInto_antecedent (hexec : exec i s = .next (free (t.ruleElement fa f))) (hv : t.ccr.v = false)
    (hread : ∀ a, (free { t with a := a }).ppage = s.ppage ∧ (free { t with a := a }).dev = s.dev ∧
      (free { t with a := a }).mem = s.mem := by exact fun _ => ⟨rfl, rfl, rfl⟩) :
    CompletesInto i s (free { t with a := BitVec.ofNat 8 (min t.a.toNat f.toNat) }) := by
  have hlower : t.ruleElement fa f = { t with a := BitVec.ofNat 8 (min t.a.toNat f.toNat) } := by
    have hnot : ¬ t.ccr.v = true := by rw [hv]; exact Bool.false_ne_true
    rw [State.ruleElement, if_neg hnot, State.lowerTruth]
    by_cases hlt : f.toNat < t.a.toNat
    · rw [if_pos hlt, min_eq_right hlt.le, BitVec.ofNat_toNat, BitVec.setWidth_eq]
    · rw [if_neg hlt, min_eq_left (not_lt.1 hlt), BitVec.ofNat_toNat, BitVec.setWidth_eq]
  obtain ⟨hppage, hdev, hmem⟩ := hread (BitVec.ofNat 8 (min t.a.toNat f.toNat))
  exact .of (by rw [hexec, hlower]) hppage hdev hmem

/-- A consequent that is not below A writes nothing (44_fuzzy_minmax_table.md R344, R346). -/
theorem completesInto_consequent (hexec : exec i s = .next (free (t.ruleElement fa f))) (hv : t.ccr.v = true)
    (hle : t.a.toNat ≤ f.toNat) (hppage : (free t).ppage = s.ppage := by rfl) (hdev : (free t).dev = s.dev := by rfl)
    (hmem : (free t).mem = s.mem := by rfl) : CompletesInto i s (free t) := by
  have hkeep : t.ruleElement fa f = t := by
    rw [State.ruleElement, if_pos hv, State.raiseOutput, if_neg (not_lt.2 hle)]
  exact .of (by rw [hexec, hkeep]) hppage hdev hmem

/-- A consequent below A is raised to it (44_fuzzy_minmax_table.md R344, R346). -/
theorem storesInto_consequent (hexec : exec i s = .next (free (t.ruleElement fa f))) (hv : t.ccr.v = true)
    (hlt : f.toNat < t.a.toNat) (hsame : SameButMemory (free t) (free (t.writeByte fa t.a)))
    (hread : ∀ u : State, (free u).ppage = u.ppage ∧ (free u).dev = u.dev ∧ (free u).mem = u.mem ∧
      (free u).devices = u.devices ∧ (free u).writeLimit = u.writeLimit :=
        by exact fun _ => ⟨rfl, rfl, rfl, rfl, rfl⟩) :
    StoresInto i s (free t) fa [t.a] := by
  have hraise : t.ruleElement fa f = t.writeByte fa t.a := by
    rw [State.ruleElement, if_pos hv, State.raiseOutput, if_pos hlt]
  obtain ⟨hp, hd, hm, hn, hl⟩ := hread t
  obtain ⟨hp', hd', hm', hn', hl'⟩ := hread (t.writeByte fa t.a)
  exact ⟨_, by rw [hexec, hraise], hsame,
    (State.writeByte_stored t fa t.a).congr hp hd hm hn hl hp' hd' hm' hn' hl'⟩

end

/-- Reading changes the devices alone, whether or not the element has been read ahead (20_memory.md R65). -/
theorem taken_eq (s : State) {u : State} {m : Nat} (hu : u = { s with devices := m }) :
    ∃ n, (if s.ruleAhead = none then u else s) = { s with devices := n } := by
  by_cases h : s.ruleAhead = none
  · exact ⟨m, (if_pos h).trans hu⟩
  · exact ⟨s.devices, if_neg h⟩

/-! ### REV -/

/-- `e` is the next element of REV, and taking it leaves the devices at `n` (44_fuzzy_minmax_table.md R344(d)). -/
def RevTakes (s : State) (n : Nat) (e : Byte) : Prop :=
  s.ruleByte = e ∧ s.tookByte = { s with devices := n, x := s.x + 1, ruleAhead := none }

theorem freeHnzc_writeByte (t : State) (fa : Word) (v : Byte) :
    SameButMemory t.freeHnzc (t.writeByte fa v).freeHnzc := by
  simp [State.freeHnzc, State.drew, State.freeBit]

/-- An element of REV taken, its fuzzy value read, which leaves the devices at `n`, and the element after it read ahead
(44_fuzzy_minmax_table.md R344(d)). -/
def revReadsOn (s : State) (n : Nat) : State :=
  { s with devices := n, x := s.x + 1, ruleAhead := none }.byteAhead

section
variable {s : State} {n : Nat} {e : Byte}

theorem revReadsOn_freeHnzc : (revReadsOn s n).freeHnzc =
    let u : State := { s with devices := n }
    { u.touch (s.x + 1) with
      x := s.x + 1, freeIdx := s.freeIdx + 4, ruleAhead := some (BitVec.ofNat 16 (u.readByte (s.x + 1)).toNat),
      ccr := { s.ccr with h := s.freeBit 0, n := s.freeBit 1, z := s.freeBit 2, c := s.freeBit 3 } } := by
  rw [revReadsOn, State.byteAhead, zext8_eq]
  rfl

/-- The end marker of REV (44_fuzzy_minmax_table.md R344, R345). -/
theorem rev_end (h : RevTakes s n e) (he : e = 0xFF) : CompletesInto .rev s
    { s with
      devices := n, x := s.x + 1, freeIdx := s.freeIdx + 4, ruleAhead := none, pc := s.npc 2,
      ccr := { s.ccr with h := s.freeBit 0, n := s.freeBit 1, z := s.freeBit 2, c := s.freeBit 3 } } := by
  obtain ⟨hbyte, htook⟩ := h
  have hexec : execRev s = .next { s.tookByte.freeHnzc with pc := s.npc 2 } := by
    rw [execRev, hbyte, if_pos he]
  rw [htook] at hexec
  exact .of hexec rfl rfl rfl

/-- The separator of REV (44_fuzzy_minmax_table.md R344). -/
theorem rev_separator (h : RevTakes s n e) (he : e = 0xFE) : CompletesInto .rev s
    { (revReadsOn s n).freeHnzc with
      a := if s.ccr.v = true then 0xFF else s.a,
      ccr := { (revReadsOn s n).freeHnzc.ccr with v := !s.ccr.v } } := by
  obtain ⟨hbyte, htook⟩ := h
  have hexec : exec .rev s = .next { (revReadsOn s n).freeHnzc with
      a := if s.ccr.v = true then 0xFF else s.a,
      ccr := { (revReadsOn s n).freeHnzc.ccr with v := !s.ccr.v } } := by
    dsimp only [exec]
    rw [execRev, hbyte, htook, he]; rfl
  exact .of hexec rfl rfl rfl

/-- An antecedent or consequent of REV (44_fuzzy_minmax_table.md R344). -/
theorem exec_rev_element (h : RevTakes s n e) (he : e.toNat < 0xFE) :
    let r : State := { s with devices := n }; let fa := s.y + BitVec.ofNat 16 e.toNat
    exec .rev s = .next ((revReadsOn s (r.touch fa).devices).ruleElement fa (r.readByte fa)).freeHnzc := by
  obtain ⟨hbyte, htook⟩ := h
  have hne : e ≠ 0xFF ∧ e ≠ 0xFE := by constructor <;> (rintro rfl; revert he; decide)
  dsimp only [exec]
  rw [execRev, hbyte, htook, if_neg hne.1, if_neg hne.2, zext8_eq]
  rfl

end

/-! ### REVW -/

/-- `e` is the next element of REVW, and taking it leaves the devices at `n` (44_fuzzy_minmax_table.md R346(e)). -/
def RevwTakes (s : State) (n : Nat) (e : Word) : Prop :=
  s.ruleWord = e ∧ s.tookWord = { s with devices := n, x := s.x + 2, ruleAhead := none }

theorem freeHnz_writeByte (t : State) (fa : Word) (v : Byte) :
    SameButMemory t.freeHnz (t.writeByte fa v).freeHnz := by
  simp [State.freeHnz, State.drew, State.freeBit]

/-- An element of REVW taken, its fuzzy value or weight read, which leaves the devices at `n`, and the element after it read
ahead (44_fuzzy_minmax_table.md R346(e)). -/
def revwReadsOn (s : State) (n : Nat) : State :=
  { s with devices := n, x := s.x + 2, ruleAhead := none }.wordAhead

section
variable {s : State} {n : Nat} {e : Word}

theorem revwReadsOn_freeHnz : (revwReadsOn s n).freeHnz =
    let u : State := { s with devices := n }
    { u.touchWord (s.x + 2) with
      x := s.x + 2, freeIdx := s.freeIdx + 3, ruleAhead := some (u.readWord (s.x + 2)),
      ccr := { s.ccr with h := s.freeBit 0, n := s.freeBit 1, z := s.freeBit 2 } } :=
  rfl

/-- The end marker of REVW (44_fuzzy_minmax_table.md R346, R347). -/
theorem revw_end (h : RevwTakes s n e) (he : e = 0xFFFF) : CompletesInto .revw s
    { s with
      devices := n, x := s.x + 2, freeIdx := s.freeIdx + 3, ruleAhead := none, pc := s.npc 2,
      ccr := { s.ccr with h := s.freeBit 0, n := s.freeBit 1, z := s.freeBit 2 } } := by
  obtain ⟨hword, htook⟩ := h
  have hexec : execRevw s = .next { s.tookWord.freeHnz with pc := s.npc 2 } := by
    rw [execRevw, hword, if_pos he]
  rw [htook] at hexec
  exact .of hexec rfl rfl rfl

/-- The separator after the consequents of a rule (44_fuzzy_minmax_table.md R346). -/
theorem revw_separator_after_consequents (h : RevwTakes s n e) (he : e = 0xFFFE) (hv : s.ccr.v = true) :
    CompletesInto .revw s { (revwReadsOn s n).freeHnz with
      a := 0xFF, ccr := { (revwReadsOn s n).freeHnz.ccr with v := false } } := by
  obtain ⟨hword, htook⟩ := h
  have hexec : exec .revw s = .next { (revwReadsOn s n).freeHnz with
      a := 0xFF, ccr := { (revwReadsOn s n).freeHnz.ccr with v := false } } := by
    dsimp only [exec]
    rw [execRevw, hword, htook, he, if_neg (by decide), if_pos rfl, if_pos hv]; rfl
  exact .of hexec rfl rfl rfl

/-- The separator between the antecedents and the consequents of a rule: A may be weighted before the element after it is read
(44_fuzzy_minmax_table.md R346). -/
theorem exec_revw_separator (h : RevwTakes s n e) (he : e = 0xFFFE) (hv : s.ccr.v = false) :
    exec .revw s = .next
      (let t := s.tookWord.applyWeight.wordAhead; { t with ccr := { s.ccr with v := true } }.freeHnz) := by
  obtain ⟨hword, htook⟩ := h
  have hnot : ¬ s.tookWord.ccr.v = true := by rw [htook]; exact Bool.eq_false_iff.1 hv
  have hccr : s.tookWord.ccr = s.ccr := by rw [htook]
  dsimp only [exec]
  rw [execRevw, hword, he, if_neg (by decide), if_pos rfl, if_neg hnot, hccr]

theorem revw_separator_unweighted (h : RevwTakes s n e) (he : e = 0xFFFE) (hv : s.ccr.v = false) (hc : s.ccr.c = false) :
    CompletesInto .revw s { (revwReadsOn s n).freeHnz with
      ccr := { (revwReadsOn s n).freeHnz.ccr with v := true } } := by
  have hexec := exec_revw_separator h he hv
  have hnot : ¬ s.ccr.c = true := Bool.eq_false_iff.1 hc
  rw [h.2, State.applyWeight, if_neg hnot] at hexec
  exact .of hexec rfl rfl rfl

theorem revw_separator_weighted (h : RevwTakes s n e) (he : e = 0xFFFE) (hv : s.ccr.v = false) (hc : s.ccr.c = true) :
    let r : State := { s with devices := n }; let p := ((r.readByte s.y).toNat + 1) * s.a.toNat
    let t := (revwReadsOn s (r.touch s.y).devices).freeHnz
    CompletesInto .revw s { t with
      a := BitVec.ofNat 8 (p / 256), b := if Config.revwKeepsB = true then s.b else BitVec.ofNat 8 p, y := s.y + 1,
      ccr := { t.ccr with v := true } } := by
  intro r p t
  have hexec := exec_revw_separator h he hv
  have hp : (BitVec.ofNat 16 p).toNat = p := by
    have hf := (r.readByte s.y).isLt
    have hle : p ≤ 256 * 255 := Nat.mul_le_mul hf (Nat.le_of_lt_succ s.a.isLt)
    rw [BitVec.toNat_ofNat, Nat.mod_eq_of_lt (by omega)]
  rw [h.2, State.applyWeight, if_pos hc] at hexec
  have hbytes : hiByte (BitVec.ofNat 16 p) = BitVec.ofNat 8 (p / 256) ∧ loByte (BitVec.ofNat 16 p) = BitVec.ofNat 8 p := by
    rw [hiByte_eq, loByte_eq, hp]; exact ⟨rfl, rfl⟩
  refine .of (hexec.trans ?_) rfl rfl rfl
  rw [← hbytes.1, ← hbytes.2]
  rfl

/-- An antecedent or consequent of REVW (44_fuzzy_minmax_table.md R346). -/
theorem exec_revw_element (h : RevwTakes s n e) (he : e.toNat < 0xFFFE) :
    let r : State := { s with devices := n }
    exec .revw s = .next ((revwReadsOn s (r.touch e).devices).ruleElement e (r.readByte e)).freeHnz := by
  obtain ⟨hword, htook⟩ := h
  have hne : e ≠ 0xFFFF ∧ e ≠ 0xFFFE := by constructor <;> (rintro rfl; revert he; decide)
  dsimp only [exec]
  rw [execRevw, hword, htook, if_neg hne.1, if_neg hne.2]
  rfl

end

/-- Settles O42: the element read ahead or read now is `RevTakes` or `RevwTakes`, and each clause is the lemma on that
element. -/
theorem ruleElements : Obligations.RuleElements := by
  refine ⟨fun s => ?rev, fun s => ?revw⟩
  case rev =>
    intro e r fa f last base
    have htook : s.tookByte = { r with x := s.x + 1, ruleAhead := none } := by
      unfold State.tookByte
      dsimp only [r]
      cases s.ruleAhead with
      | some w => rfl
      | none => rfl
    have hbyte : s.ruleByte = e := by
      unfold State.ruleByte
      dsimp only [e]
      cases s.ruleAhead with
      | some w => exact loByte_eq w
      | none => rfl
    obtain ⟨n, hr⟩ : ∃ n, r = { s with devices := n } := taken_eq s (m := s.afterRead s.x) rfl
    clear_value r e
    subst hr
    have h : RevTakes s n e := ⟨hbyte, htook⟩
    have hbase : ∀ m, base { s with devices := m } = (revReadsOn s m).freeHnzc := fun m =>
      (revReadsOn_freeHnzc (s := s) (n := m)).symm
    let u : State := { s with devices := n }
    have hafter : base (u.touch fa) = (revReadsOn s (u.touch fa).devices).freeHnzc := hbase _
    refine ⟨rev_end h, fun he => ?separator, fun he hv => ?antecedent, fun he hv hle => ?kept,
      fun he hv hlt => ?raised, rfl⟩
    case separator => rw [hbase]; exact rev_separator h he
    case antecedent => rw [hafter]; exact completesInto_antecedent (exec_rev_element h he) hv
    case kept => rw [hafter]; exact completesInto_consequent (exec_rev_element h he) hv hle
    case raised =>
      rw [hafter]
      exact storesInto_consequent (exec_rev_element h he) hv hlt (freeHnzc_writeByte ..)
  case revw =>
    intro e r f p last base
    have htook : s.tookWord = { r with x := s.x + 2, ruleAhead := none } := by
      unfold State.tookWord
      dsimp only [r]
      cases s.ruleAhead with
      | some w => rfl
      | none => rfl
    have hword : s.ruleWord = e := rfl
    obtain ⟨n, hr⟩ : ∃ n, r = { s with devices := n } := taken_eq s (m := (s.touchWord s.x).devices) rfl
    clear_value r e
    subst hr
    have h : RevwTakes s n e := ⟨hword, htook⟩
    have hbase : ∀ m, base { s with devices := m } = (revwReadsOn s m).freeHnz := fun m =>
      (revwReadsOn_freeHnz (s := s) (n := m)).symm
    let u : State := { s with devices := n }
    have hread : base (u.touch e) = (revwReadsOn s (u.touch e).devices).freeHnz := hbase _
    have hweight : base (u.touch s.y) = (revwReadsOn s (u.touch s.y).devices).freeHnz := hbase _
    refine ⟨revw_end h, fun he hv => ?consequents, fun he hv hc => ?unweighted, fun he hv hc => ?weighted,
      fun he hv => ?antecedent, fun he hv hle => ?kept, fun he hv hlt => ?raised, rfl⟩
    case consequents => rw [hbase]; exact revw_separator_after_consequents h he hv
    case unweighted => rw [hbase]; exact revw_separator_unweighted h he hv hc
    case weighted => rw [hbase, hweight]; exact revw_separator_weighted h he hv hc
    case antecedent => rw [hread]; exact completesInto_antecedent (exec_revw_element h he) hv
    case kept => rw [hread]; exact completesInto_consequent (exec_revw_element h he) hv hle
    case raised =>
      rw [hread]
      exact storesInto_consequent (exec_revw_element h he) hv hlt (freeHnz_writeByte ..)

end Sys2Proof
end

section
/-! PROOFS. The passes of WAV and wavr, and their end (44_fuzzy_minmax_table.md R341, R350 to R353). -/

namespace Sys2Proof.Machine

/-! ### One pass -/

/-- A sample at which no pass of WAV is stopped (44_fuzzy_minmax_table.md R352). -/
def State.Passes (s : State) (q : Inputs) : Prop := q.NoReset ∧ s.interruptPending q = none

/-- The state after a pass of WAV that nothing stops: the pair taken, a sample used, the pair accumulated
(44_fuzzy_minmax_table.md R351). -/
def State.passed (s : State) : State :=
  s.pairTaken.popInput.accumulate (s.readByte s.y) ((s.touch s.y).readByte s.x)

/-- A list of samples that has run out requests nothing. -/
theorem State.passes_default (s : State) : s.Passes {} := by
  refine ⟨⟨rfl, rfl⟩, ?_⟩
  have hnone : s.irqRequests {} = [] := by simp [State.irqRequests]
  simp [State.interruptPending, hnone, selectIrq, highestIrq]

/-- A pass that nothing stops, also where the list of samples has run out: the last one, or one with more after it
(44_fuzzy_minmax_table.md R351). -/
theorem wavLoop_of_passes (here npc : Word) (K : Nat) {s : State} (h : s.Passes s.input) :
    wavLoop here npc K s = if K = 0 then s.passed.finishWav npc else wavLoop here npc (K - 1) s.passed := by
  obtain ⟨⟨hreset, hlate⟩, hpend⟩ := h
  have hinput : s.pairTaken.input = s.input := rfl
  have hpend' : s.pairTaken.popInput.interruptPending s.input = none := hpend
  conv_lhs => unfold wavLoop
  dsimp only
  rw [hinput, hreset]; dsimp only
  rw [hpend']; dsimp only
  rw [hlate]
  cases K with
  | zero => rfl
  | succ K => rfl

/-- A reset that a sample requests in a pass, at its check or after it (44_fuzzy_minmax_table.md R341(e)). -/
def State.PassReset (s : State) (q : Inputs) (v : Word) : Prop :=
  q.resetVector = some v ∨
    (q.resetVector = none ∧ s.interruptPending q = none ∧ ∃ src n, q.lateReset = some (src, n) ∧ v = src.vector)

/-- A pass in which a reset is requested: the reset sequence, whatever is left of a limit on writes. -/
theorem wavLoop_reset (here npc : Word) (K : Nat) {s : State} {v : Word} (h : s.PassReset s.input v) :
    ∃ limit, wavLoop here npc K s = { s.pairTaken.popInput with writeLimit := limit }.takeReset v := by
  have hinput : s.pairTaken.input = s.input := rfl
  rcases h with hreset | ⟨hreset, hpend, src, n, hlate, rfl⟩
  · exact ⟨s.writeLimit, by unfold wavLoop; dsimp only; rw [hinput, hreset]; rfl⟩
  · have hpend' : s.pairTaken.popInput.interruptPending s.input = none := hpend
    refine ⟨none, ?_⟩
    unfold wavLoop
    dsimp only
    rw [hinput, hreset]; dsimp only
    rw [hpend']; dsimp only
    rw [hlate]; rfl

/-! ### Several passes -/

theorem wavPassed_zero (s : State) (l : List Inputs) : s.wavPassed 0 l = { s with inputs := l } := by
  simp [State.wavPassed, State.sumOfProducts, State.sumOfWeights, State.pairsRead, extract_hi, extract_lo]

theorem sumOfProducts_succ (s : State) (k : Nat) :
    s.sumOfProducts (k + 1) = s.sumOfProducts k + s.pairOutput k * s.pairSingleton k := by
  simp [State.sumOfProducts, List.range_succ]

theorem sumOfWeights_succ (s : State) (k : Nat) : s.sumOfWeights (k + 1) = s.sumOfWeights k + s.pairOutput k := by
  simp [State.sumOfWeights, List.range_succ]

/-- The next pair taken after `k` passes. -/
theorem pairTaken_wavPassed (s : State) (k : Nat) (l : List Inputs) : (s.wavPassed k l).pairTaken =
    { s.wavPassed k l with
      b := s.b - BitVec.ofNat 8 (k + 1), x := s.x + BitVec.ofNat 16 (k + 1), y := s.y + BitVec.ofNat 16 (k + 1),
      devices := (s.pairsRead (k + 1)).devices } := by
  have hdevices : (s.pairsRead (k + 1)).devices = (s.wavPassed k l).pairTaken.devices := by
    rw [State.pairsRead, pairsRead_eq s k]; rfl
  have hnext : ∀ w : Word, w + BitVec.ofNat 16 (k + 1) = w + BitVec.ofNat 16 k + 1 := fun w => by
    rw [BitVec.ofNat_add, BitVec.add_assoc]; rfl
  have hb : s.b - BitVec.ofNat 8 (k + 1) = s.b - BitVec.ofNat 8 k - 1 := by
    rw [BitVec.ofNat_add]; bv_omega
  rw [hdevices, hnext, hnext, hb]
  rfl

/-- One pass after `k` passes that nothing stopped. -/
theorem wavPassed_passed (s : State) (k : Nat) (l : List Inputs) :
    (s.wavPassed k l).passed = s.wavPassed (k + 1) l.tail := by
  set fi := (s.wavPassed k l).readByte (s.wavPassed k l).y with hfi
  set si := ((s.wavPassed k l).touch (s.wavPassed k l).y).readByte (s.wavPassed k l).x with hsi
  have hout : fi.toNat = s.pairOutput k := by
    rw [hfi, State.pairOutput, pairsRead_eq s k]; rfl
  have hsing : si.toNat = s.pairSingleton k := by
    rw [hsi, State.pairSingleton, pairsRead_eq s k]; rfl
  have hproducts : (s.wavPassed k l).tmp1 ++ (s.wavPassed k l).tmp2 + BitVec.ofNat 32 (si.toNat * fi.toNat) =
      s.tmp1 ++ s.tmp2 + BitVec.ofNat 32 (s.sumOfProducts (k + 1)) := by
    simp only [State.wavPassed]
    rw [extract_append32, sumOfProducts_succ, hout, hsing, BitVec.add_assoc, ← BitVec.ofNat_add, Nat.mul_comm]
  have hweights : (s.wavPassed k l).tmp3 + zext8 fi = s.tmp3 + BitVec.ofNat 16 (s.sumOfWeights (k + 1)) := by
    rw [zext8_eq, hout, sumOfWeights_succ, BitVec.ofNat_add, ← BitVec.add_assoc]; rfl
  have hpassed : (s.wavPassed k l).passed = (s.wavPassed k l).pairTaken.popInput.accumulate fi si := rfl
  rw [hpassed, pairTaken_wavPassed, State.accumulate]
  simp only [State.popInput, hproducts, hweights]
  rfl

/-- The sample of the pass after `k` passes; the list of samples may run out (log 4). -/
theorem passes_headD_drop {s : State} {l : List Inputs} {k : Nat} (h : ∀ q ∈ l.take (k + 1), s.Passes q) :
    s.Passes ((l.drop k).headD {}) := by
  cases hd : l.drop k with
  | nil => exact s.passes_default
  | cons q rest => exact h q (by simp [List.take_add_one, ← List.head?_drop, hd])

/-- `k` passes that nothing stops, after `j` passes (44_fuzzy_minmax_table.md R351). -/
theorem wavLoop_wavPassed (here npc : Word) (s : State) {K k : Nat} (j : Nat) {l : List Inputs}
    (h : ∀ q ∈ l.take k, s.Passes q) (hk : k ≤ K) :
    wavLoop here npc K (s.wavPassed j l) = wavLoop here npc (K - k) (s.wavPassed (j + k) (l.drop k)) := by
  induction k with
  | zero => rfl
  | succ k ih =>
    have hinput : (s.wavPassed (j + k) (l.drop k)).Passes (s.wavPassed (j + k) (l.drop k)).input := passes_headD_drop h
    rw [ih (fun q hq => h q (List.take_subset_take_left l k.le_succ hq)) (by omega), wavLoop_of_passes here npc _ hinput,
      if_neg (by omega), wavPassed_passed, List.tail_drop, Nat.sub_sub]
    rfl

/-- All the passes that are left, nothing stopping them. -/
theorem wavLoop_finish (here npc : Word) (s : State) {K : Nat} (j : Nat) {l : List Inputs}
    (h : ∀ q ∈ l.take (K + 1), s.Passes q) :
    wavLoop here npc K (s.wavPassed j l) = (s.wavPassed (j + (K + 1)) (l.drop (K + 1))).finishWav npc := by
  have hinput : (s.wavPassed (j + K) (l.drop K)).Passes (s.wavPassed (j + K) (l.drop K)).input := passes_headD_drop h
  rw [wavLoop_wavPassed here npc s j (fun q hq => h q (List.take_subset_take_left l K.le_succ hq)) le_rfl, Nat.sub_self,
    wavLoop_of_passes here npc 0 hinput, if_pos rfl, wavPassed_passed, List.tail_drop]
  rfl

/-! ### The sums -/

/-- Reading pairs depends on the pointers and on what reads depend on. -/
theorem pairsRead_congr {s t : State} (h : Alike s t) (hx : t.x = s.x) (hy : t.y = s.y) (k : Nat) :
    Alike (s.pairsRead k) (t.pairsRead k) := by
  induction k with
  | zero => exact h
  | succ k ih =>
    rw [State.pairsRead, State.pairsRead, hx, hy]
    exact (ih.touch _).touch _

theorem sums_congr {s t : State} (h : Alike s t) (hx : t.x = s.x) (hy : t.y = s.y) (k : Nat) :
    t.sumOfProducts k = s.sumOfProducts k ∧ t.sumOfWeights k = s.sumOfWeights k := by
  have hout : t.pairOutput = s.pairOutput := funext fun j => by
    rw [State.pairOutput, State.pairOutput, hy, (pairsRead_congr h hx hy j).readByte]
  have hsing : t.pairSingleton = s.pairSingleton := funext fun j => by
    rw [State.pairSingleton, State.pairSingleton, hx, hy, ((pairsRead_congr h hx hy j).touch _).readByte]
  simp only [State.sumOfProducts, State.sumOfWeights, hout, hsing, and_self]

theorem extract_hi_ofNat (n : Nat) : (BitVec.ofNat 32 n).extractLsb' 16 16 = BitVec.ofNat 16 (n / 65536) := by
  apply BitVec.eq_of_toNat_eq
  simp only [BitVec.extractLsb'_toNat, BitVec.toNat_ofNat, Nat.shiftRight_eq_div_pow]
  omega

theorem extract_lo_ofNat (n : Nat) : (BitVec.ofNat 32 n).extractLsb' 0 16 = BitVec.ofNat 16 n := by
  apply BitVec.eq_of_toNat_eq
  simp only [BitVec.extractLsb'_toNat, BitVec.toNat_ofNat, Nat.shiftRight_zero]
  omega

/-- With the sums that `t` holds in its temporaries, the sums after `k` passes are `sop` and `sow`
(44_fuzzy_minmax_table.md R350). -/
def State.SumsAfter (t : State) (k sop sow : Nat) : Prop :=
  t.tmp1 ++ t.tmp2 + BitVec.ofNat 32 (t.sumOfProducts k) = BitVec.ofNat 32 sop ∧
    t.tmp3 + BitVec.ofNat 16 (t.sumOfWeights k) = BitVec.ofNat 16 sow

/-- `k` passes that nothing stopped, as one state. -/
theorem wavPassed_eq {t : State} {k sop sow : Nat} (h : t.SumsAfter k sop sow) (l : List Inputs) :
    t.wavPassed k l = { t with
      b := t.b - BitVec.ofNat 8 k, x := t.x + BitVec.ofNat 16 k, y := t.y + BitVec.ofNat 16 k,
      tmp1 := BitVec.ofNat 16 (sop / 65536), tmp2 := BitVec.ofNat 16 sop, tmp3 := BitVec.ofNat 16 sow,
      inputs := l, devices := (t.pairsRead k).devices } := by
  rw [State.wavPassed, h.1, h.2, extract_hi_ofNat, extract_lo_ofNat]

/-- The end of WAV after `k` passes (44_fuzzy_minmax_table.md R351). -/
theorem wavPassed_finishWav {t : State} {k sop sow : Nat} (h : t.SumsAfter k sop sow) (l : List Inputs) (npc : Word) :
    (t.wavPassed k l).finishWav npc = { t.withD sop with
      y := BitVec.ofNat 16 (sop / 65536), x := BitVec.ofNat 16 sow, pc := npc,
      tmp1 := BitVec.ofNat 16 (sop / 65536), tmp2 := BitVec.ofNat 16 sop, tmp3 := BitVec.ofNat 16 sow,
      tmp2Known := true, tmp3Known := true, inputs := l, freeIdx := t.freeIdx + 4, devices := (t.pairsRead k).devices,
      ccr := { t.ccr with z := true, h := t.freeBit 0, n := t.freeBit 1, v := t.freeBit 2, c := t.freeBit 3 } } := by
  rw [wavPassed_eq h, State.finishWav, setD_ofNat]
  rfl

/-! ### WAV -/

/-- WAV clears the three temporaries before its first pass (44_fuzzy_minmax_table.md R351). -/
def State.wavStart (s : State) : State := { s with tmp1 := 0, tmp2 := 0, tmp3 := 0 }

theorem exec_wav (s : State) : exec .wav s =
    .next (wavLoop (s.npc 1) (s.npc 2) (s.b - 1).toNat (s.wavStart.wavPassed 0 s.inputs)) := by
  rw [wavPassed_zero]; rfl

theorem State.wavStart_alike (s : State) : Alike s s.wavStart := ⟨rfl, rfl, rfl, rfl⟩

theorem wavStart_sums (s : State) (k : Nat) : s.wavStart.SumsAfter k (s.sumOfProducts k) (s.sumOfWeights k) := by
  obtain ⟨hproducts, hweights⟩ := sums_congr s.wavStart_alike rfl rfl k
  have hzero : (0 : Word) ++ (0 : Word) = 0#32 := by decide
  have htmp : s.wavStart.tmp1 ++ s.wavStart.tmp2 = (0 : Word) ++ (0 : Word) := rfl
  refine ⟨?products, ?weights⟩
  case products => rw [htmp, hzero, hproducts, BitVec.zero_add]
  case weights => rw [hweights]; exact BitVec.zero_add _

/-- As many passes as B says, 256 when B is $00 (44_fuzzy_minmax_table.md R351). -/
theorem wav_passes (b : Byte) : (b - 1).toNat + 1 = if b = 0 then 256 else b.toNat := by
  revert b; decide

theorem wav_complete {s : State} {n : Nat} (hn : (s.b - 1).toNat + 1 = n) (h : ∀ q ∈ s.inputs.take n, s.Passes q) :
    let sop := s.sumOfProducts n; let sow := s.sumOfWeights n
    CompletesInto .wav s { (s.pairsRead n).withD sop with
      y := BitVec.ofNat 16 (sop / 65536), x := BitVec.ofNat 16 sow, pc := s.npc 2,
      tmp1 := BitVec.ofNat 16 (sop / 65536), tmp2 := BitVec.ofNat 16 sop, tmp3 := BitVec.ofNat 16 sow,
      tmp2Known := true, tmp3Known := true, inputs := s.inputs.drop n, freeIdx := s.freeIdx + 4,
      ccr := { s.ccr with z := true, h := s.freeBit 0, n := s.freeBit 1, v := s.freeBit 2, c := s.freeBit 3 } } := by
  intro sop sow
  have hexec := exec_wav s
  have hdevices := (pairsRead_congr s.wavStart_alike rfl rfl n).2.2.2
  subst hn
  rw [wavLoop_finish (s := s.wavStart) _ _ 0 h, Nat.zero_add, wavPassed_finishWav (wavStart_sums s _),
    hdevices] at hexec
  rw [pairsRead_eq]
  exact .of hexec rfl rfl rfl

/-! ### wavr -/

/-- SP moved, which no read sees. -/
def State.setSp (s : State) (v : Word) : State := { s with sp := v }

theorem pulled16_eq (s : State) : s.pulled16 = (s.touchWord s.sp).setSp (s.sp + 2) := rfl

theorem touchWord_setSp (u : State) (v a : Word) : (u.setSp v).touchWord a = (u.touchWord a).setSp v := rfl

theorem readWord_setSp (u : State) (v a : Word) : (u.setSp v).readWord a = u.readWord a := rfl

theorem setSp_setSp (u : State) (v w : Word) : (u.setSp v).setSp w = u.setSp w := rfl

theorem setSp_sp (u : State) (v : Word) : (u.setSp v).sp = v := rfl

/-- wavr pulls three words, six bytes (44_fuzzy_minmax_table.md R353). -/
theorem pullSums_eq (s : State) : s.pullSums = { s.sumsRead.setSp (s.sp + 6) with
    tmp1 := s.readWord s.sp, tmp2 := (s.touchWord s.sp).readWord (s.sp + 2),
    tmp3 := ((s.touchWord s.sp).touchWord (s.sp + 2)).readWord (s.sp + 4) } := by
  have h4 : s.sp + 2 + 2 = s.sp + 4 := by bv_omega
  have h6 : s.sp + 4 + 2 = s.sp + 6 := by bv_omega
  simp only [State.pullSums, State.top16, pulled16_eq, touchWord_setSp, readWord_setSp, setSp_setSp, setSp_sp, h4, h6,
    State.sumsRead]

/-- The pointers on the pending pair, B counting it (44_fuzzy_minmax_table.md R353). -/
def State.withPending (s : State) : State := { s with b := s.b + 1, x := s.x - 1, y := s.y - 1 }

/-- Adding the pending pair is a pass that looks at no sample. -/
theorem addPending_eq (s : State) : s.addPending = s.withPending.wavPassed 1 s.inputs := by
  let w : State := { s.withPending with inputs := {} :: s.inputs }
  have hpassed : w.passed = s.withPending.wavPassed 1 s.inputs := by
    have h0 := wavPassed_passed s.withPending 0 ({} :: s.inputs)
    rwa [wavPassed_zero] at h0
  have htaken : w.pairTaken.popInput = (s.touch (s.y - 1)).touch (s.x - 1) := by
    have hx : s.x - 1 + 1 = s.x := BitVec.sub_add_cancel _ _
    have hy : s.y - 1 + 1 = s.y := BitVec.sub_add_cancel _ _
    have hb : s.b + 1 - 1 = s.b := BitVec.add_sub_cancel _ _
    have hfields : w.pairTaken.popInput = { (s.touch (s.y - 1)).touch (s.x - 1) with
      b := s.b + 1 - 1, x := s.x - 1 + 1, y := s.y - 1 + 1 } := rfl
    rw [hfields, hx, hy, hb]; rfl
  rw [← hpassed, State.passed, htaken]
  rfl

/-- `t` is `s` after reads, which change the devices alone (20_memory.md R65). -/
def ReadFrom (s t : State) : Prop := t = { s with devices := t.devices }

theorem ReadFrom.touchWord {s t : State} (h : ReadFrom s t) (a : Word) : ReadFrom s (t.touchWord a) := by
  have hdevices : ∀ n, ({ t with devices := n } : State) = { s with devices := n } := fun n => by rw [h]
  exact hdevices (t.touchWord a).devices

theorem sumsRead_readFrom (s : State) : ReadFrom s s.sumsRead :=
  ((show ReadFrom s s from rfl).touchWord s.sp |>.touchWord (s.sp + 2)).touchWord (s.sp + 4)

/-- Where wavr goes on as WAV, its pulls made and the pending pair still to be taken (44_fuzzy_minmax_table.md R353). -/
def State.wavrStart (s : State) : State :=
  { s with
    b := s.b + 1, x := s.x - 1, y := s.y - 1, sp := s.sp + 6, devices := s.sumsRead.devices, tmp1 := s.readWord s.sp,
    tmp2 := (s.touchWord s.sp).readWord (s.sp + 2),
    tmp3 := ((s.touchWord s.sp).touchWord (s.sp + 2)).readWord (s.sp + 4) }

theorem pullSums_withPending (s : State) : s.pullSums.withPending = s.wavrStart := by
  rw [pullSums_eq, sumsRead_readFrom s]; rfl

theorem pullSums_inputs (s : State) : s.pullSums.inputs = s.inputs := by
  rw [pullSums_eq, sumsRead_readFrom s]; rfl

theorem exec_wavr (s : State) : exec .wavr s = .next
    (let u := s.wavrStart.wavPassed 1 s.inputs
     if s.b = 0 then u.finishWav (s.npc 1) else wavLoop s.pc (s.npc 1) (s.b - 1).toNat u) := by
  have hpending : s.pullSums.addPending = s.wavrStart.wavPassed 1 s.inputs := by
    rw [addPending_eq, pullSums_inputs, pullSums_withPending]
  have hb : (s.wavrStart.wavPassed 1 s.inputs).b = s.b := BitVec.add_sub_cancel s.b 1
  show execWavr s = _
  rw [execWavr, hpending, hb]

theorem append_eq_ofNat (a b : Word) : a ++ b = BitVec.ofNat 32 (65536 * a.toNat + b.toNat) := by
  apply BitVec.eq_of_toNat_eq
  have ha := a.isLt
  have hb := b.isLt
  rw [BitVec.toNat_append, ← Nat.shiftLeft_add_eq_or_of_lt hb, Nat.shiftLeft_eq, BitVec.toNat_ofNat]
  omega

/-- The pairs of wavr are those of the state after its pulls, from the pending one on. -/
theorem State.wavrStart_alike (s : State) : Alike { s.sumsRead with x := s.x - 1, y := s.y - 1 } s.wavrStart := by
  rw [sumsRead_readFrom s]
  exact ⟨rfl, rfl, rfl, rfl⟩

/-- The sums pulled and those of the pairs (44_fuzzy_minmax_table.md R353). -/
theorem wavrStart_sums (s : State) (k : Nat) :
    let r : State := { s.sumsRead with x := s.x - 1, y := s.y - 1 }
    s.wavrStart.SumsAfter k (s.stackedProducts + r.sumOfProducts k) (s.stackedWeights + r.sumOfWeights k) := by
  intro r
  obtain ⟨hproducts, hweights⟩ := sums_congr s.wavrStart_alike rfl rfl k
  have hsop : s.wavrStart.tmp1 ++ s.wavrStart.tmp2 = BitVec.ofNat 32 s.stackedProducts := append_eq_ofNat _ _
  have hsow : s.wavrStart.tmp3 = BitVec.ofNat 16 s.stackedWeights := by
    rw [State.stackedWeights, BitVec.ofNat_toNat, BitVec.setWidth_eq]; rfl
  refine ⟨?products, ?weights⟩
  case products => rw [hproducts, hsop, ← BitVec.ofNat_add]
  case weights => rw [hweights, hsow, ← BitVec.ofNat_add]

/-- wavr with nothing requested: the pending pair, then as many passes as B says, none when B is $00
(44_fuzzy_minmax_table.md R353). -/
theorem exec_wavr_finish {s : State} (h : ∀ q ∈ s.inputs.take s.b.toNat, s.Passes q) : exec .wavr s =
    .next ((s.wavrStart.wavPassed (s.b.toNat + 1) (s.inputs.drop s.b.toNat)).finishWav (s.npc 1)) := by
  rw [exec_wavr]
  by_cases hb : s.b = 0
  · have hnone : s.b.toNat = 0 := by rw [hb]; rfl
    rw [if_pos hb, hnone]; rfl
  · have hn : (s.b - 1).toNat + 1 = s.b.toNat := by rw [wav_passes, if_neg hb]
    rw [← hn] at h
    have hfinish := wavLoop_finish s.pc (s.npc 1) s.wavrStart 1 h
    rw [hn, Nat.add_comm] at hfinish
    rw [if_neg hb, hfinish]

theorem wavr_complete {s : State} (h : ∀ q ∈ s.inputs.take s.b.toNat, s.Passes q) :
    let r := { s.sumsRead with x := s.x - 1, y := s.y - 1 }
    let sop := s.stackedProducts + r.sumOfProducts (s.b.toNat + 1)
    let sow := s.stackedWeights + r.sumOfWeights (s.b.toNat + 1)
    CompletesInto .wavr s { (r.pairsRead (s.b.toNat + 1)).withD sop with
      y := BitVec.ofNat 16 (sop / 65536), x := BitVec.ofNat 16 sow, sp := s.sp + 6, pc := s.npc 1,
      tmp1 := BitVec.ofNat 16 (sop / 65536), tmp2 := BitVec.ofNat 16 sop, tmp3 := BitVec.ofNat 16 sow,
      tmp2Known := true, tmp3Known := true, inputs := s.inputs.drop s.b.toNat, freeIdx := s.freeIdx + 4,
      ccr := { s.ccr with z := true, h := s.freeBit 0, n := s.freeBit 1, v := s.freeBit 2, c := s.freeBit 3 } } := by
  intro r sop sow
  have hexec := exec_wavr_finish h
  obtain ⟨n, hn⟩ : ∃ n, n = (r.pairsRead (s.b.toNat + 1)).devices := ⟨_, rfl⟩
  have hdevices : (s.wavrStart.pairsRead (s.b.toNat + 1)).devices = n :=
    (pairsRead_congr s.wavrStart_alike rfl rfl (s.b.toNat + 1)).2.2.2.trans hn.symm
  have hr : r = { s with x := s.x - 1, y := s.y - 1, devices := s.sumsRead.devices } := by
    show ({ s.sumsRead with x := s.x - 1, y := s.y - 1 } : State) = _
    rw [sumsRead_readFrom s]
  rw [wavPassed_finishWav (wavrStart_sums s _), hdevices] at hexec
  rw [pairsRead_eq r, ← hn, hr]
  exact .of hexec rfl rfl rfl

/-- Settles O43, by `wav_complete` and `wavr_complete`. -/
theorem weightedAverageSums : Obligations.WeightedAverageSums :=
  ⟨fun s h => ⟨wav_complete (wav_passes s.b) h, rfl⟩, fun _ h => ⟨wavr_complete h, rfl⟩⟩

end Sys2Proof.Machine
end

section
/-! PROOFS. WAV and wavr stopped in a pass, by an interrupt or by a reset (44_fuzzy_minmax_table.md R341, R352, R353;
60_exceptions.md R506, R508; 70_reset_and_hazards.md R551). -/

namespace Sys2Proof.Machine

/-! ### What a read sees after stores to plain storage -/

/-- A device register answers by the devices' state alone. -/
theorem readByte_of_register {s t : State} {a : Word} (hp : t.ppage = s.ppage) (hd : t.dev = s.dev)
    (hv : t.devices = s.devices) (hr : ¬ s.NotRegister a) : t.readByte a = s.readByte a := by
  have hk : s.dev.kindAt (s.physKey a) = some .register := not_not.1 hr
  simp only [State.readByte, State.physKey_congr hp hd, hp, hd, hv, hk]

/-- Stores to plain storage are seen at no other physical byte, be it a device register (20_memory.md R62, R70). -/
theorem Stored.readByte_eq {s t : State} {l : List (Word × Byte)} (hd : t.dev = s.dev) (h : Stored s t l) (hi : s.Inv)
    (hl : ∀ p ∈ l, s.Stores p.1) {a : Word} (ha : ∀ p ∈ l, s.physKey a ≠ s.physKey p.1) :
    t.readByte a = s.readByte a := by
  obtain ⟨hppage, -, hdevices, hother, -⟩ := h hi fun p hp => (hl p hp).1
  have hplain : ∀ p ∈ l, s.NotRegister p.1 := fun p hp => by rw [State.NotRegister, (hl p hp).2]; nofun
  by_cases hr : s.NotRegister a
  · exact hother a hr ha
  · exact readByte_of_register hppage hd (hdevices hplain) hr

theorem Stored.readWord_eq {s t : State} {l : List (Word × Byte)} (hd : t.dev = s.dev) (h : Stored s t l) (hi : s.Inv)
    (hl : ∀ p ∈ l, s.Stores p.1) {a : Word} (ha : ∀ p ∈ l, s.physKey a ≠ s.physKey p.1)
    (ha' : ∀ p ∈ l, s.physKey (a + 1) ≠ s.physKey p.1) : t.readWord a = s.readWord a := by
  have htouch : (t.touch a).readByte (a + 1) = (s.touch a).readByte (a + 1) :=
    (h.touch hd a).readByte_eq (s := s.touch a) (t := t.touch a) hd hi hl ha'
  rw [State.readWord, State.readWord, h.readByte_eq hd hi hl ha, htouch]

/-- The sums stacked, six bytes below SP, leave a word alone that they do not reach (44_fuzzy_minmax_table.md R352). -/
theorem readWord_push_sums {u : State} {a : Word} (hi : u.Inv)
    (h : ∀ j, j < 6 → u.Stores (u.sp - 6 + BitVec.ofNat 16 j) ∧
      u.physKey a ≠ u.physKey (u.sp - 6 + BitVec.ofNat 16 j) ∧
      u.physKey (a + 1) ≠ u.physKey (u.sp - 6 + BitVec.ofNat 16 j)) :
    (((u.push16 u.tmp3).push16 u.tmp2).push16 u.tmp1).readWord a = u.readWord a := by
  have hsp : u.sp - 2 - 2 - 2 = u.sp - 6 := by bv_omega
  have hstored := (((Stored.nil u).push16_below (vs := []) rfl rfl u.tmp3).push16_below (by simp) (by simp)
    u.tmp2).push16_below (by simp) (by simp) u.tmp1
  rw [hsp] at hstored
  have hmem : ∀ p ∈ bytesAt (u.sp - 6) (wordBE u.tmp1 ++ (wordBE u.tmp2 ++ (wordBE u.tmp3 ++ []))),
      ∃ j, j < 6 ∧ p.1 = u.sp - 6 + BitVec.ofNat 16 j := by
    intro p hp
    obtain ⟨j, hj, he⟩ := mem_bytesAt.1 hp
    exact ⟨j, (List.getElem?_eq_some_iff.1 hj).1, he⟩
  refine hstored.readWord_eq (by simp) hi ?_ ?_ ?_ <;> intro p hp <;> obtain ⟨j, hj, he⟩ := hmem p hp <;> rw [he]
  · exact (h j hj).1
  · exact (h j hj).2.1
  · exact (h j hj).2.2

/-! ### The interrupt exit -/

theorem Alike.touchWord {s t : State} (h : Alike s t) (a : Word) : Alike (s.touchWord a) (t.touchWord a) :=
  (h.touch a).touch (a + 1)

/-- The state in which the interrupt exit finds the machine in pass `k`, the passes counted from 0
(44_fuzzy_minmax_table.md R352). -/
def State.wavMet (s : State) (k sop sow : Nat) (sp : Word) (rest : List Inputs) : State :=
  { s with
    b := s.b - BitVec.ofNat 8 (k + 1), x := s.x + BitVec.ofNat 16 (k + 1), y := s.y + BitVec.ofNat 16 (k + 1), sp := sp,
    tmp1 := BitVec.ofNat 16 (sop / 65536), tmp2 := BitVec.ofNat 16 sop, tmp3 := BitVec.ofNat 16 sow,
    inputs := rest, devices := (s.pairsRead (k + 1)).devices }

theorem wavMet_alike (s : State) (k sop sow : Nat) (sp : Word) (rest : List Inputs) :
    Alike (s.pairsRead (k + 1)) (s.wavMet k sop sow sp rest) := by
  rw [pairsRead_eq]
  exact ⟨rfl, rfl, rfl, rfl⟩

theorem wavContext_eq (s : State) (k : Nat) : s.wavContext k = { s with
    b := s.b - BitVec.ofNat 8 (k + 1), x := s.x + BitVec.ofNat 16 (k + 1), y := s.y + BitVec.ofNat 16 (k + 1),
    devices := (s.pairsRead (k + 1)).devices,
    ccr := { s.ccr with h := s.freeBit 0, n := s.freeBit 1, z := s.freeBit 2, v := s.freeBit 3, c := s.freeBit 4 } } := by
  rw [State.wavContext, pairsRead_eq]

theorem touchWord_devices_only (u : State) (a : Word) : u.touchWord a = { u with devices := (u.touchWord a).devices } := rfl

/-- What the interrupt exit leaves but for memory, as `wavStopped` says it. -/
theorem wavMet_entered (s : State) (k sop sow : Nat) (sp target : Word) (r : Request) (rest : List Inputs) :
    let f := (s.wavMet k sop sow sp rest).freeHnzvc
    { (f.touchWord r.vector).entered target r.isXirq with sp := sp - 15 } =
      s.wavStopped k sop sow sp target r rest := by
  intro f
  have halike : Alike (s.wavContext k) f := by
    rw [wavContext_eq]
    exact ⟨rfl, rfl, rfl, rfl⟩
  have hdevices := (halike.touchWord r.vector).2.2.2
  rw [State.wavStopped, touchWord_devices_only f, hdevices, touchWord_devices_only (s.wavContext k)]
  generalize ((s.wavContext k).touchWord r.vector).devices = n
  rw [wavContext_eq]
  rfl

theorem wavMet_frame (s : State) (k sop sow : Nat) (sp ret : Word) (rest : List Inputs) :
    let u := s.wavMet k sop sow sp rest
    u.freeHnzvc.frameBytes ret ++ wordBE u.tmp1 ++ wordBE u.tmp2 ++ wordBE u.tmp3 = s.wavFrame k sop sow ret := by
  intro u
  rw [State.wavFrame, wavContext_eq]
  rfl

/-- The interrupt exit of a pass is what `WavStops` says. -/
theorem wavStops_of {i : Instr} {s₀ s : State} {r : Request} {k sop sow : Nat} {sp ret : Word} {rest : List Inputs}
    (hexec : exec i s₀ = .next ((s.wavMet k sop sow sp rest).interruptWav ret r)) :
    WavStops i s₀ s r k sop sow sp ret rest := by
  let u := s.wavMet k sop sow sp rest
  let target := (((u.push16 u.tmp3).push16 u.tmp2).push16 u.tmp1).readWord r.vector
  refine ⟨target, ⟨u.interruptWav ret r, hexec, ?stores⟩, fun hi h => ?target⟩
  case stores =>
    rw [← wavMet_entered, ← wavMet_frame s k sop sow sp ret rest]
    exact interruptWav_stores u ret r
  case target =>
    obtain ⟨hppage, hdev, hmem, hdevices⟩ := wavMet_alike s k sop sow sp rest
    have hkept : target = u.readWord r.vector := readWord_push_sums hi h
    rw [hkept]
    exact State.readWord_congr hppage hdev hmem hdevices r.vector

/-! ### Resets -/

/-- A reset in a pass is what `WavReset` says. -/
theorem wavReset_of {i : Instr} {s u t : State} {v : Word} {rest : List Inputs}
    (hexec : exec i s = .next (t.takeReset v)) (h : Alike u t) (hrest : t.inputs = rest) : WavReset i s u v rest := by
  obtain ⟨hppage, hdev, hmem, hdevices⟩ := h
  exact ⟨_, hexec, ⟨rfl, rfl, rfl, rfl, rfl, State.readWord_congr hppage hdev hmem hdevices v, hmem⟩, hrest⟩

/-! ### The pass that is stopped -/

section
variable {t s : State} {k sop sow : Nat} {sp : Word} {q : Inputs} {rest : List Inputs}

/-- The state `t` in which the passes start is `s` but for SP and the temporaries. -/
def StartsAs (t s : State) (sp : Word) : Prop :=
  t = { s with sp := sp, tmp1 := t.tmp1, tmp2 := t.tmp2, tmp3 := t.tmp3 }

/-- The pair taken, and the sample used, in the pass after `k` passes from `t`. -/
theorem pairTaken_eq_wavMet (ht : StartsAs t s sp) (hsums : t.SumsAfter k sop sow) :
    { (t.wavPassed k (q :: rest)).pairTaken with inputs := rest } = s.wavMet k sop sow sp rest := by
  have halike : Alike s t := by rw [ht]; exact ⟨rfl, rfl, rfl, rfl⟩
  have hdevices := (pairsRead_congr halike (by rw [ht]) (by rw [ht]) (k + 1)).2.2.2
  rw [pairTaken_wavPassed, wavPassed_eq hsums, hdevices, ht]
  rfl

/-- A pass that an interrupt stops, after `k` passes from `t` (44_fuzzy_minmax_table.md R352). -/
theorem wavLoop_stopped (ht : StartsAs t s sp) (hsums : t.SumsAfter k sop sow) {r : Request} (hq : q.NoReset)
    (hr : s.interruptPending q = some r) (here npc : Word) (K : Nat) :
    wavLoop here npc K (t.wavPassed k (q :: rest)) = (s.wavMet k sop sow sp rest).interruptWav here r := by
  have hpend : (t.wavPassed k (q :: rest)).interruptPending q = some r := by rw [ht]; exact hr
  rw [wavLoop_stop here npc K rfl hq hpend, pairTaken_eq_wavMet ht hsums]

/-- A pass in which a reset is requested, after `k` passes from `t` (44_fuzzy_minmax_table.md R341(e)). -/
theorem wavReset_of_passReset {i : Instr} {s₀ : State} {v here npc : Word} {K : Nat} (halike : Alike s t) (hx : t.x = s.x)
    (hy : t.y = s.y) (h : t.PassReset q v)
    (hexec : exec i s₀ = .next (wavLoop here npc K (t.wavPassed k (q :: rest)))) :
    WavReset i s₀ (s.pairsRead (k + 1)) v rest := by
  obtain ⟨limit, hloop⟩ := wavLoop_reset here npc K (s := t.wavPassed k (q :: rest)) h
  rw [hloop, pairTaken_wavPassed] at hexec
  refine wavReset_of hexec ?alike rfl
  case alike =>
    have hdevices := (pairsRead_congr halike hx hy (k + 1)).2.2.2
    obtain ⟨hppage, hdev, hmem, -⟩ := halike
    rw [pairsRead_eq]
    exact ⟨hppage, hdev, hmem, hdevices⟩

end

/-- The passes of WAV before the one in which `q` is met. -/
theorem exec_wav_passed {s : State} {before : List Inputs} {q : Inputs} {rest : List Inputs}
    (hin : s.inputs = before ++ q :: rest) (h : ∀ p ∈ before, s.Passes p)
    (hk : before.length < if s.b = 0 then 256 else s.b.toNat) : exec .wav s =
      .next (wavLoop (s.npc 1) (s.npc 2) ((s.b - 1).toNat - before.length)
        (s.wavStart.wavPassed before.length (q :: rest))) := by
  have hle : before.length ≤ (s.b - 1).toNat := by
    rw [← wav_passes] at hk
    exact Nat.le_of_lt_succ hk
  have htake : ∀ p ∈ s.inputs.take before.length, s.wavStart.Passes p := by rwa [hin, List.take_left]
  rw [exec_wav, wavLoop_wavPassed _ _ s.wavStart 0 htake hle, hin, List.drop_left, Nat.zero_add]

/-- The pending pair and the passes of wavr before the one in which `q` is met. -/
theorem exec_wavr_passed {s : State} {before : List Inputs} {q : Inputs} {rest : List Inputs}
    (hin : s.inputs = before ++ q :: rest) (h : ∀ p ∈ before, s.Passes p) (hk : before.length < s.b.toNat) :
    exec .wavr s =
      .next (wavLoop s.pc (s.npc 1) ((s.b - 1).toNat - before.length)
        (s.wavrStart.wavPassed (before.length + 1) (q :: rest))) := by
  have hb : s.b ≠ 0 := by
    rintro hb
    rw [hb] at hk
    exact absurd hk (Nat.not_lt_zero _)
  have hle : before.length ≤ (s.b - 1).toNat := by
    have hn : (s.b - 1).toNat + 1 = s.b.toNat := by rw [wav_passes, if_neg hb]
    omega
  have htake : ∀ p ∈ s.inputs.take before.length, s.wavrStart.Passes p := by rwa [hin, List.take_left]
  rw [exec_wavr]
  dsimp only
  rw [if_neg hb, wavLoop_wavPassed _ _ s.wavrStart 1 htake hle, hin, List.drop_left, Nat.add_comm]

theorem wavStart_startsAs (s : State) : StartsAs s.wavStart s s.sp := rfl

/-- The pairs of wavr, the pending one first, are read from here (44_fuzzy_minmax_table.md R353). -/
def State.wavrPairs (s : State) : State :=
  { s with b := s.b + 1, x := s.x - 1, y := s.y - 1, devices := s.sumsRead.devices }

theorem wavrPairs_eq (s : State) :
    { ({ s.sumsRead with x := s.x - 1, y := s.y - 1 } : State) with b := s.b + 1 } = s.wavrPairs := by
  rw [sumsRead_readFrom s]
  rfl

theorem wavrStart_startsAs (s : State) : StartsAs s.wavrStart s.wavrPairs (s.sp + 6) := rfl

theorem State.wavrPairs_alike (s : State) : Alike s.wavrPairs s.wavrStart := ⟨rfl, rfl, rfl, rfl⟩

/-- Settles O44: the passes before, then the one that is stopped; wavr's pending pair is one pass more. -/
theorem weightedAverageInterrupted : Obligations.WeightedAverageInterrupted := by
  intro s before q rest hin hbefore k u w sop sow
  have hw : w = s.wavrPairs := wavrPairs_eq s
  clear_value w
  subst hw
  refine ⟨fun r hq hr => ⟨fun hk => wavStops_of ?wav, fun hk => wavStops_of ?wavr⟩,
    fun v hv => ⟨fun hk => ?wavReset, fun hk => ?wavrReset⟩⟩
  case wav =>
    rw [exec_wav_passed hin hbefore hk,
      wavLoop_stopped (wavStart_startsAs s) (wavStart_sums s _) hq hr]
    rfl
  case wavr =>
    rw [exec_wavr_passed hin hbefore hk,
      wavLoop_stopped (wavrStart_startsAs s) (wavrStart_sums s _) hq hr]
  case wavReset =>
    exact wavReset_of_passReset s.wavStart_alike rfl rfl hv (exec_wav_passed hin hbefore hk)
  case wavrReset =>
    exact wavReset_of_passReset s.wavrPairs_alike rfl rfl hv (exec_wavr_passed hin hbefore hk)

end Sys2Proof.Machine
end

section
/-! PROOFS. Short and long branches, bit-condition branches and loop primitives (45_branch.md R382 to R430). -/

namespace Sys2Proof

open Sys2Proof.Machine

/-! ### The conditions of the branches -/

/-- The condition of BHI and LBHI; BLS and LBLS test its negation (45_branch.md R386, R387). -/
theorem higher_eq_decide (c z : Bool) : (!(c || z)) = decide (c = false ∧ z = false) := by
  cases c <;> cases z <;> rfl

theorem lowerOrSame_eq_decide (c z : Bool) : (c || z) = decide (c = true ∨ z = true) := by
  rw [Bool.decide_or, Bool.decide_eq_true, Bool.decide_eq_true]

/-- The condition of BLT and LBLT; BGE and LBGE test its negation (45_branch.md R398, R399). -/
theorem less_eq_decide (n v : Bool) : (n ^^ v) = decide (n ≠ v) := by
  cases n <;> cases v <;> rfl

theorem greaterOrEqual_eq_decide (n v : Bool) : (!(n ^^ v)) = decide (n = v) := by
  cases n <;> cases v <;> rfl

/-- The condition of BLE and LBLE; BGT and LBGT test its negation (45_branch.md R400, R401). -/
theorem lessOrEqual_eq_decide (z n v : Bool) : (z || (n ^^ v)) = decide (z = true ∨ n ≠ v) := by
  rw [Bool.decide_or, Bool.decide_eq_true, less_eq_decide]

theorem greater_eq_decide (z n v : Bool) : (!(z || (n ^^ v))) = decide (z = false ∧ n = v) := by
  rw [Bool.not_or, Bool.decide_and, Bool.decide_eq_false, greaterOrEqual_eq_decide]

/-! ### Short and long branches -/

/-- A short branch under another form of its condition (45_branch.md R383). -/
theorem exec_shortBranch {i : Instr} {s : State} {rr : Byte} {b cond : Bool} (hexec : exec i s = shortBranch b rr s)
    (hcond : b = cond) :
    exec i s = .next { s with pc := BitVec.ofInt 16 (s.pc.toNat + 2 + if cond then rr.toInt else 0) } := by
  rw [hexec, shortBranch_eq, hcond]

theorem branches_short {i : Instr} {s : State} {op rr : Byte} {b cond : Bool} (hexec : exec i s = shortBranch b rr s)
    (hcond : b = cond) (hbytes : encode i = [op, rr]) : Branches i [op, rr] s cond rr.toInt :=
  ⟨.of (exec_shortBranch hexec hcond) rfl rfl rfl, hbytes⟩

theorem branches_long {i : Instr} {s : State} {op : Byte} {w : Word} {b cond : Bool}
    (hexec : exec i s = longBranch b w s) (hcond : b = cond) (hbytes : encode i = 0x18 :: op :: wordBytes w) :
    Branches i (0x18 :: op :: wordBE w) s cond w.toInt :=
  ⟨.of (by rw [hexec, longBranch_eq, hcond]; rfl) rfl rfl rfl, by rw [hbytes, wordBytes_eq]⟩

/-- Settles O47: each branch is `shortBranch` or `longBranch` of its condition. -/
theorem conditionalBranches : Obligations.ConditionalBranches := by
  refine ⟨fun s rr => ?short, fun s qqrr => ?long⟩
  case short =>
    exact ⟨branches_short rfl rfl rfl, branches_short rfl rfl rfl,
      branches_short rfl (higher_eq_decide _ _) rfl, branches_short rfl (lowerOrSame_eq_decide _ _) rfl,
      branches_short rfl Bool.decide_eq_false.symm rfl, branches_short rfl Bool.decide_eq_false.symm rfl,
      branches_short rfl Bool.decide_eq_true.symm rfl, branches_short rfl Bool.decide_eq_true.symm rfl,
      branches_short rfl Bool.decide_eq_false.symm rfl, branches_short rfl Bool.decide_eq_true.symm rfl,
      branches_short rfl Bool.decide_eq_false.symm rfl, branches_short rfl Bool.decide_eq_true.symm rfl,
      branches_short rfl Bool.decide_eq_false.symm rfl, branches_short rfl Bool.decide_eq_true.symm rfl,
      branches_short rfl (greaterOrEqual_eq_decide _ _) rfl, branches_short rfl (less_eq_decide _ _) rfl,
      branches_short rfl (greater_eq_decide _ _ _) rfl, branches_short rfl (lessOrEqual_eq_decide _ _ _) rfl⟩
  case long =>
    exact ⟨branches_long rfl rfl rfl, branches_long rfl rfl rfl,
      branches_long rfl (higher_eq_decide _ _) rfl, branches_long rfl (lowerOrSame_eq_decide _ _) rfl,
      branches_long rfl Bool.decide_eq_false.symm rfl, branches_long rfl Bool.decide_eq_false.symm rfl,
      branches_long rfl Bool.decide_eq_true.symm rfl, branches_long rfl Bool.decide_eq_true.symm rfl,
      branches_long rfl Bool.decide_eq_false.symm rfl, branches_long rfl Bool.decide_eq_true.symm rfl,
      branches_long rfl Bool.decide_eq_false.symm rfl, branches_long rfl Bool.decide_eq_true.symm rfl,
      branches_long rfl Bool.decide_eq_false.symm rfl, branches_long rfl Bool.decide_eq_true.symm rfl,
      branches_long rfl (greaterOrEqual_eq_decide _ _) rfl, branches_long rfl (less_eq_decide _ _) rfl,
      branches_long rfl (greater_eq_decide _ _ _) rfl, branches_long rfl (lessOrEqual_eq_decide _ _ _) rfl⟩

/-! ### The branches after a compare -/

theorem subtracted_c (c : Ccr) (x y : Byte) : (c.subtracted x y 0).c = decide (x.toNat < y.toNat) := rfl

theorem subtracted_z (c : Ccr) (x y : Byte) : (c.subtracted x y 0).z = decide (x = y) := by
  have hdiff : BitVec.ofInt 8 (x.toInt - y.toInt - (0 : Nat)) = x - y := by
    refine (subFlags_res8 x y false).symm.trans ?_
    simp [subFlags]
  change isZero (BitVec.ofInt 8 (x.toInt - y.toInt - (0 : Nat))) = _
  rw [hdiff, ← isZero_eq, beq_eq_decide, decide_eq_decide]
  exact sub_eq_zero

/-- N differs from V exactly when the exact signed difference is negative (45_branch.md R382). -/
theorem subtracted_n_xor_v (c : Ccr) (x y : Byte) :
    ((c.subtracted x y 0).n ^^ (c.subtracted x y 0).v) = decide (x.toInt < y.toInt) := by
  have hx := BitVec.toInt_lt (x := x); have hx' := BitVec.le_toInt x
  have hy := BitVec.toInt_lt (x := y); have hy' := BitVec.le_toInt y
  change (isNeg (BitVec.ofInt 8 (x.toInt - y.toInt - (0 : Nat))) ^^ overflows 8 (x.toInt - y.toInt - (0 : Nat))) = _
  rw [less_eq_decide, isNeg, overflows, BitVec.toInt_ofInt, decide_eq_decide, ne_eq, decide_eq_decide, Int.bmod]
  omega

/-- CMPA with an immediate operand leaves the flags of the subtraction (41_arith.md R227). -/
theorem cmpa_imm_ccr {s t : State} {m : Byte} (h : exec (.cmpa (.imm m)) s = .next t) :
    t.ccr = s.ccr.subtracted s.a m 0 := by
  obtain ⟨hsrc, -⟩ := comparesWriteFlagsOnly s
  obtain ⟨⟨hcmpa, -⟩, -⟩ := hsrc (.imm m)
  obtain rfl := Host.Outcome.next.inj (h.symm.trans hcmpa)
  rfl

/-- Settles O28: after the CMPA, C is the unsigned order, N xor V the signed one and Z equality. -/
theorem branchesAfterCompare : Obligations.BranchesAfterCompare := by
  intro s t m rr hcmp go
  have hc : t.ccr.c = decide (s.a.toNat < m.toNat) := by rw [cmpa_imm_ccr hcmp, subtracted_c]
  have hz : t.ccr.z = decide (s.a = m) := by rw [cmpa_imm_ccr hcmp, subtracted_z]
  have hnv : (t.ccr.n ^^ t.ccr.v) = decide (s.a.toInt < m.toInt) := by rw [cmpa_imm_ccr hcmp, subtracted_n_xor_v]
  refine ⟨exec_shortBranch rfl ?bhi, exec_shortBranch rfl ?bls, exec_shortBranch rfl ?bhs, exec_shortBranch rfl hc,
    exec_shortBranch rfl ?bgt, exec_shortBranch rfl ?ble, exec_shortBranch rfl ?bge, exec_shortBranch rfl hnv,
    exec_shortBranch rfl hz, exec_shortBranch rfl ?bne⟩
  case bhi | bls =>
    rw [hc, hz]
    simp only [← BitVec.toNat_inj, ← Bool.decide_or, ← decide_not, decide_eq_decide]
    omega
  case bgt | ble =>
    rw [hnv, hz]
    simp only [← BitVec.toInt_inj, ← Bool.decide_or, ← decide_not, decide_eq_decide]
    omega
  case bhs => rw [hc, ← decide_not, decide_eq_decide, not_lt]
  case bge => rw [hnv, ← decide_not, decide_eq_decide, not_lt]
  case bne => rw [hz, decide_not]

/-! ### BRSET and BRCLR -/

/-- A memory operand with bytes after it. -/
theorem encodedMem_tail_of {mk : MemOp → Instr} {dir ext idx : Byte} {tail : List Byte}
    (hdir : ∀ dd, encode (mk (.dir dd)) = [dir, dd] ++ tail)
    (hext : ∀ a, encode (mk (.ext a)) = ext :: wordBytes a ++ tail)
    (hidx : ∀ i, encode (mk (.idx i)) = idx :: i.bytes ++ tail) : EncodedMem mk dir ext idx tail :=
  ⟨hdir, fun a => by rw [hext, wordBytes_eq], hidx⟩

theorem add_sext8 (p : Word) (rr : Byte) : p + sext8 rr = BitVec.ofInt 16 (p.toNat + rr.toInt) := by
  rw [BitVec.ofInt_add, ← word_eq_ofInt]
  rfl

/-- The test of BRCLR, bit by bit (45_branch.md R423). -/
theorem and_mask_eq_zero_iff {w : Nat} (m mm : BitVec w) :
    m &&& mm = 0 ↔ ∀ k : Fin w, mm.getLsbD k = true → m.getLsbD k = false := by
  rw [BitVec.and_comm]
  simp only [BitVec.eq_of_getLsbD_eq_iff, BitVec.ofNat_eq_ofNat, BitVec.getLsbD_and, BitVec.getLsbD_zero,
    Bool.and_eq_false_imp, Fin.forall_iff]

/-- The test of BRSET, bit by bit (45_branch.md R422). -/
theorem not_and_mask_eq_zero_iff {w : Nat} (m mm : BitVec w) :
    ~~~m &&& mm = 0 ↔ ∀ k : Fin w, mm.getLsbD k = true → m.getLsbD k = true := by
  simp only [and_mask_eq_zero_iff, BitVec.getLsbD_not, Fin.is_lt, decide_true, Bool.true_and, Bool.not_eq_false']

/-- A bit-condition branch writes no flag and no memory, whatever its test (45_branch.md R421). -/
theorem completesInto_bitBranch {i : Instr} {ad : MemOp} {rr : Byte} {s u : State} {p ea : Word} {test : Byte → Bool}
    {cond : Prop} [Decidable cond] (hexec : exec i s = bitBranch test ad rr s) (hp : s.npc (3 + ad.len) = p)
    (hu : ad.side p s = u) (hea : ad.ea p s = ea) (htest : test (u.readByte ea) = true ↔ cond) :
    CompletesInto i s { u.touch ea with pc := if cond then BitVec.ofInt 16 (p.toNat + rr.toInt) else p } := by
  subst hp hu hea
  refine .of ?_ (by simp) (by simp) (by simp)
  simp only [hexec, bitBranch, htest, add_sext8]

/-! ### Loop primitives -/

/-- A count mod 2^w, as a number (45_branch.md R424). -/
theorem toNat_add_ofInt {w : Nat} (v : BitVec w) (δ : Int) :
    ((v + BitVec.ofInt w δ).toNat : Int) = (v.toNat + δ) % 2 ^ w := by
  have hcount : v + BitVec.ofInt w δ = BitVec.ofInt w (v.toNat + δ) := by
    rw [BitVec.ofInt_add, BitVec.ofInt_natCast, BitVec.ofNat_toNat, BitVec.setWidth_eq]
  rw [hcount, BitVec.toNat_ofInt]
  exact_mod_cast Int.toNat_of_nonneg (Int.emod_nonneg _ (by positivity))

theorem add_ofInt {w : Nat} (v : BitVec w) (δ : Int) :
    v + BitVec.ofInt w δ = BitVec.ofInt w ((v.toNat + δ) % 2 ^ w) := by
  rw [← toNat_add_ofInt, BitVec.ofInt_natCast, BitVec.ofNat_toNat, BitVec.setWidth_eq]

theorem add_ofInt_beq_zero {w : Nat} (v : BitVec w) (δ : Int) :
    (v + BitVec.ofInt w δ == 0) = decide ((v.toNat + δ) % 2 ^ w = 0) := by
  rw [isZero_eq, isZero, ← toNat_add_ofInt, decide_eq_decide, Int.natCast_eq_zero]

/-- A register that holds the count, and its test for zero; `f` writes the register. -/
theorem counted_eq {w : Nat} (v : BitVec w) (δ : Int) (f : BitVec w → State) :
    (f (v + BitVec.ofInt w δ), v + BitVec.ofInt w δ == 0) =
      (f (BitVec.ofInt w ((v.toNat + δ) % 2 ^ w)), decide ((v.toNat + δ) % 2 ^ w = 0)) :=
  Prod.ext (congrArg f (add_ofInt v δ)) (add_ofInt_beq_zero v δ)

/-- A and B are changed by the low byte of the word. -/
theorem loByte_ofInt (δ : Int) : loByte (BitVec.ofInt 16 δ) = BitVec.ofInt 8 δ := by
  apply BitVec.eq_of_toNat_eq
  rw [loByte_eq, BitVec.toNat_ofInt, BitVec.toNat_ofNat, BitVec.toNat_ofInt]
  omega

theorem setD_add_ofInt (s : State) (δ : Int) :
    s.setD (s.d + BitVec.ofInt 16 δ) = s.withD ((s.dNat + δ) % 2 ^ 16 % 65536).toNat := by
  rw [setD_eq, ← d_toNat, ← toNat_add_ofInt, Int.emod_eq_of_lt (by omega) (by omega), Int.toNat_natCast]

/-- The count of a loop primitive as a number, and its test for zero (45_branch.md R424). -/
theorem loopCount_eq (r : LoopReg) (δ : Int) (s : State) :
    let k := loopCounter r s
    let n := ((k.1 : Int) + δ) % 2 ^ k.2.1
    loopCount r (BitVec.ofInt 16 δ) s = (k.2.2 n, decide (n = 0)) := by
  intro k n
  cases r with
  | a => rw [loopCount, loByte_ofInt]; exact counted_eq s.a δ fun v => { s with a := v }
  | b => rw [loopCount, loByte_ofInt]; exact counted_eq s.b δ fun v => { s with b := v }
  | d =>
    have hzero := add_ofInt_beq_zero s.d δ
    rw [d_toNat] at hzero
    exact Prod.ext (setD_add_ofInt s δ) hzero
  | x => exact counted_eq s.x δ fun v => { s with x := v }
  | y => exact counted_eq s.y δ fun v => { s with y := v }
  | sp => exact counted_eq s.sp δ fun v => { s with sp := v }

theorem loopCounter_frame (r : LoopReg) (n : Int) (s : State) :
    let t := (loopCounter r s).2.2 n
    t.ppage = s.ppage ∧ t.dev = s.dev ∧ t.mem = s.mem := by
  cases r <;> exact ⟨rfl, rfl, rfl⟩

/-- The postbyte of a loop primitive (30_encoding.md R114). -/
theorem loop_postbyte (kind : BitVec 3) (sign : BitVec 1) (code : BitVec 3) : (kind ++ sign ++ 0#1 ++ code : Byte) =
    BitVec.ofNat 8 (32 * kind.toNat + 16 * sign.toNat + code.toNat) := by
  revert kind sign code; decide

theorem loop_code_toNat (r : LoopReg) : r.code.toNat = loopCode r := by cases r <;> rfl

theorem loopBytes_eq (kind : BitVec 3) (r : LoopReg) (off : BitVec 9) : loopBytes kind r off =
    [0x04, BitVec.ofNat 8 (32 * kind.toNat + (if off.toInt < 0 then 16 else 0) + loopCode r),
      BitVec.ofNat 8 off.toNat] := by
  rw [loopBytes, loop_postbyte, offset_sign, offset_low, loop_code_toNat, mul_ite, mul_one, mul_zero]

/-- A loop primitive that counts by `δ`, and its bytes (45_branch.md R424, 30_encoding.md R114). -/
theorem loopsBy_of {kind : BitVec 3} {δ : Int} {onZero : Bool} {i : Instr} {s : State} {r : LoopReg} {off : BitVec 9}
    (hexec : exec i s = loopPrimitive (BitVec.ofInt 16 δ) onZero r off s) (hbytes : encode i = loopBytes kind r off) :
    LoopsBy kind.toNat δ onZero i s r off := by
  unfold LoopsBy
  intro k n
  obtain ⟨hppage, hdev, hmem⟩ := loopCounter_frame r n s
  refine ⟨.of ?_ hppage hdev hmem, by rw [hbytes, loopBytes_eq]⟩
  rw [hexec, loopPrimitive, loopCount_eq, branch9_target]
  simp only [beq_iff_eq]
  rfl

/-- Settles O48: the two bit tests, and the six loop primitives from `loopsBy_of`. -/
theorem bitBranchesAndLoops : Obligations.BitBranchesAndLoops := by
  refine ⟨fun s ad mm rr => ?bits, fun s r off => ?loops⟩
  case bits =>
    intro p u ea m target
    refine ⟨completesInto_bitBranch (test := fun m => ~~~m &&& mm == 0) rfl rfl rfl rfl ?brset,
      completesInto_bitBranch (test := fun m => m &&& mm == 0) rfl rfl rfl rfl ?brclr,
      encodedMem_tail_of (fun _ => rfl) (fun _ => rfl) (fun _ => rfl),
      encodedMem_tail_of (fun _ => rfl) (fun _ => rfl) (fun _ => rfl)⟩
    case brset => exact beq_iff_eq.trans (not_and_mask_eq_zero_iff m mm)
    case brclr => exact beq_iff_eq.trans (and_mask_eq_zero_iff m mm)
  case loops =>
    exact ⟨loopsBy_of (kind := 0) rfl rfl, loopsBy_of (kind := 1) rfl rfl, loopsBy_of (kind := 2) rfl rfl,
      loopsBy_of (kind := 3) rfl rfl, loopsBy_of (kind := 4) rfl rfl, loopsBy_of (kind := 5) rfl rfl⟩

end Sys2Proof
end

section
/-! PROOFS. Jumps and calls (46_jump_call_stack.md R441 to R446), and RTC after CALL (46_jump_call_stack.md R447, R448). -/

namespace Sys2Proof.Machine

/-! ### Jumps, calls and RTS -/

/-- The return address `ret` stacked in the state `u` that the operand leaves, then the jump to `target`: BSR and JSR
(46_jump_call_stack.md R443, R444). -/
theorem storesInto_push16 {i : Instr} {s u : State} {ret target : Word}
    (hexec : exec i s = .next { u.push16 ret with pc := target }) :
    StoresInto i s { u with sp := u.sp - 2, pc := target } (u.sp - 2) (wordBE ret) := by
  rw [wordBE_eq]
  refine ⟨_, hexec, ?same, (State.push16_stored u ret).congr rfl rfl rfl rfl rfl rfl rfl rfl rfl rfl⟩
  case same => simp

/-- Where BSR goes (46_jump_call_stack.md R443, 30_encoding.md R97). -/
theorem bsr_target (s : State) (rr : Byte) : s.npc 2 + sext8 rr = BitVec.ofInt 16 (s.pc.toNat + 2 + rr.toInt) :=
  branch8_target s 2 rr true

/-- Settles O49: BSR and JSR are `storesInto_push16` at their return address and target; JMP and RTS write no memory. -/
theorem jumpsAndCalls : Obligations.JumpsAndCalls := by
  intro s
  refine ⟨fun ad => ?jmp, fun rr => ?bsr, fun ad => storesInto_push16 rfl, ⟨?jmp_ext, fun _ => rfl⟩, fun _ => rfl,
    encodedMem_of (fun _ => rfl) (fun _ => rfl) (fun _ => rfl), .of rfl rfl rfl rfl, rfl⟩
  case jmp => exact .of rfl (ExtIdx_side_ppage ad _ s) (ExtIdx_side_dev ad _ s) (ExtIdx_side_mem ad _ s)
  case bsr =>
    rw [← bsr_target]
    exact storesInto_push16 rfl
  case jmp_ext =>
    intro a
    rw [← wordBytes_eq]
    rfl

/-! ### Bytes stored and read back -/

theorem stores_notRegister {s : State} {a : Word} (h : s.Stores a) : s.NotRegister a := by
  rw [State.NotRegister, h.2]
  nofun

/-- Outside the window the device alone says what an address reaches, whatever the page (20_memory.md R72). -/
theorem physKey_outside_window {s : State} {a : Word} (h : a.toNat < 0x8000 ∨ 0xC000 ≤ a.toNat) :
    s.physKey a = s.dev.resolve a.toNat := by
  rw [State.physKey, mapKey_outside_window h]

/-- Plain storage outside the window is plain storage in every state of the device. -/
theorem stores_outside_window {s t : State} {a : Word} (hd : t.dev = s.dev) (h : a.toNat < 0x8000 ∨ 0xC000 ≤ a.toNat)
    (hs : s.Stores a) : t.Stores a := by
  rw [State.Stores, physKey_outside_window h] at hs ⊢
  rwa [hd]

/-- Below the window names of different bytes are so in every state of the device. -/
theorem apart_below_window {s t : State} {ea : Word} {n : Nat} (hd : t.dev = s.dev)
    (hlow : ∀ k, k < n → (ea + BitVec.ofNat 16 k).toNat < 0x8000) (ha : s.Apart ea n) : t.Apart ea n := by
  intro j k hj hk hne
  have hkeys := ha j k hj hk hne
  rw [physKey_outside_window (.inl (hlow j hj)), physKey_outside_window (.inl (hlow k hk))] at hkeys ⊢
  rwa [hd]

/-- Bytes stored to plain storage, no two of them to one byte, are read back at their addresses (20_memory.md R62). -/
theorem BytesStored.readByte_eq {s t : State} {ea : Word} {vs : List Byte} (h : BytesStored s t ea vs) (hi : s.Inv)
    (hs : ∀ k, k < vs.length → s.Stores (ea + BitVec.ofNat 16 k)) (ha : s.Apart ea vs.length) {k : Nat} {v : Byte}
    (hv : vs[k]? = some v) : t.readByte (ea + BitVec.ofNat 16 k) = v := by
  have hk : k < vs.length := (List.getElem?_eq_some_iff.1 hv).1
  obtain ⟨-, -, -, -, hback⟩ := h hi fun j hj => (hs j hj).1
  have hread := hback _ k v hv (hs k hk).1 (stores_notRegister (hs k hk)) rfl fun j hj hne => ha j k hj hk hne
  rwa [if_pos (hs k hk).2] at hread

/-! ### RTC after CALL -/

/-- RTC from a stack with no device register in it: three bytes read, PPAGE the lowest (46_jump_call_stack.md R448). -/
theorem exec_rtc_of_notRegister {t : State} (h : ∀ k, k < 3 → t.NotRegister (t.sp + BitVec.ofNat 16 k)) :
    exec .rtc t = .next { t with
      ppage := t.readByte t.sp, sp := t.sp + 3, pc := word (t.readByte (t.sp + 1)) (t.readByte (t.sp + 2)) } := by
  have hsp : t.sp + 1 + 1 = t.sp + 2 := by bv_omega
  have h0 : t.touch t.sp = t := State.touch_eq (by simpa using h 0 (by decide))
  have h1 : t.touch (t.sp + 1) = t := State.touch_eq (h 1 (by decide))
  have h2 : t.touch (t.sp + 2) = t := State.touch_eq (h 2 (by decide))
  rw [show exec .rtc t = execRtc t from rfl, execRtc_eq]
  simp only [State.touchWord, State.readWord, h0, h1, h2, hsp]

/-- What CALL leaves, where its stack is plain storage that the page does not move: nothing but memory and the three
registers has changed, and the bytes at SP are the old page and the return address (46_jump_call_stack.md R447). -/
theorem call_leaves {s t : State} {npc target : Word} {page : Byte} (hcall : s.call npc target page = t) (hi : s.Inv)
    (hs : ∀ k, k < 3 → s.Stores (s.sp - 3 + BitVec.ofNat 16 k)) (hapart : s.Apart (s.sp - 3) 3)
    (hlow : ∀ k, k < 3 → (s.sp - 3 + BitVec.ofNat 16 k).toNat < 0x8000) :
    t = { s with mem := t.mem, ppage := page, sp := s.sp - 3, pc := target } ∧
      t.readByte (s.sp - 3) = s.ppage ∧ word (t.readByte (s.sp - 3 + 1)) (t.readByte (s.sp - 3 + 2)) = npc := by
  subst hcall
  obtain ⟨hsame, hstored⟩ := call_stores s npc target page
  have hplain (k : Nat) (hk : k < 3) : { s with ppage := page }.Stores (s.sp - 3 + BitVec.ofNat 16 k) :=
    stores_outside_window (s := s) rfl (.inl (hlow k hk)) (hs k hk)
  have hback {k : Nat} {v : Byte} (hv : (s.ppage :: wordBE npc)[k]? = some v) :
      (s.call npc target page).readByte (s.sp - 3 + BitVec.ofNat 16 k) = v :=
    hstored.readByte_eq hi hplain (apart_below_window (s := s) rfl hlow hapart) hv
  obtain ⟨hppage, hlimit, hdevices, -, -⟩ := hstored hi fun k hk => (hplain k hk).1
  refine ⟨?same, by simpa using hback (k := 0) rfl, ?ret⟩
  case same =>
    refine hsame.trans ?_
    rw [hppage, hlimit, hdevices fun k hk => stores_notRegister (hplain k hk), ← hi.2]
  case ret =>
    have h1 : (s.call npc target page).readByte (s.sp - 3 + 1) = hiByte npc := hback (k := 1) (by rw [wordBE_eq]; rfl)
    have h2 : (s.call npc target page).readByte (s.sp - 3 + 2) = loByte npc := hback (k := 2) (by rw [wordBE_eq]; rfl)
    rw [h1, h2, word_hiByte_loByte]

/-- Settles O51: the stack that RTC reads is what `call_leaves` says, and none of it is a device register. -/
theorem callThenReturnRestores : Obligations.CallThenReturnRestores := by
  intro s t a pg hi hs hapart hlow ht
  have hcall : s.call (s.npc 4) a pg = t := Host.Outcome.next.inj ht
  obtain ⟨hleft, hpage, hret⟩ := call_leaves hcall hi hs hapart hlow
  have hdev : t.dev = s.dev := by rw [hleft]
  have hsp : t.sp = s.sp - 3 := by rw [hleft]
  have hplain (k : Nat) (hk : k < 3) : t.NotRegister (t.sp + BitVec.ofNat 16 k) := by
    rw [hsp]
    exact stores_notRegister (stores_outside_window hdev (.inl (hlow k hk)) (hs k hk))
  rw [exec_rtc_of_notRegister hplain, hsp, hpage, hret, BitVec.sub_add_cancel, hleft]
  rfl

end Sys2Proof.Machine
end

section
/-! PROOFS. Every instruction completes (60_exceptions.md R502). -/

namespace Sys2Proof.Machine

theorem execBgnd_completes (s : State) : ∃ t, execBgnd s = .next t := by
  unfold execBgnd
  dsimp only
  split <;> exact ⟨_, rfl⟩

theorem execCall_completes (target : CallTarget) (s : State) : ∃ t, execCall target s = .next t := by
  cases target <;> exact ⟨_, rfl⟩

/-- An instruction that may leave the line completes too: each of them is `.next` of a state, or a choice of such. -/
theorem exec_completes_of_mayLeaveLine {i : Instr} (hi : mayLeaveLine i = true)
    (hloop : ∀ lb rr, i ≠ .unassignedLoopPostbyte lb rr) (hpre : i ≠ .page2Prebyte) (s : State) :
    ∃ t, exec i s = .next t := by
  cases i
  case unassignedLoopPostbyte lb rr => exact absurd rfl (hloop lb rr)
  case page2Prebyte => exact absurd rfl hpre
  case rev => exact execRev_completes s
  case revw => exact execRevw_completes s
  case stop => exact execStop_completes s
  case bgnd => exact execBgnd_completes s
  case call target => exact execCall_completes target s
  case dbeq | dbne | tbeq | tbne | ibeq | ibne | brset | brclr | jmp | bsr | jsr | rts | rtc | rti | swi | trap | wai
    | wav | wavr | bra | brn | bhi | bls | bcc | bcs | bne | beq | bvc | bvs | bpl | bmi | bge | blt | bgt | ble | bhs
    | blo | lbra | lbrn | lbhi | lbls | lbcc | lbcs | lbne | lbeq | lbvc | lbvs | lbpl | lbmi | lbge | lblt | lbgt
    | lble | lbhs | lblo =>
    exact ⟨_, rfl⟩
  all_goals cases hi

theorem exec_completes {i : Instr} (hloop : ∀ lb rr, i ≠ .unassignedLoopPostbyte lb rr) (hpre : i ≠ .page2Prebyte)
    (s : State) : ∃ t, exec i s = .next t := by
  cases hi : mayLeaveLine i with
  | true => exact exec_completes_of_mayLeaveLine hi hloop hpre s
  | false =>
    obtain ⟨t, ht, -, -⟩ := exec_advances hi s
    exact ⟨t, ht⟩

/-- Settles O5: an instruction in line advances, the others complete one by one, and each keeps the device parameters. -/
theorem everyInstructionCompletes : Obligations.EveryInstructionCompletes := by
  intro i s hloop hpre
  obtain ⟨t, ht⟩ := exec_completes hloop hpre s
  exact ⟨t, ht, (exec_keeps i s t ht).dev⟩

end Sys2Proof.Machine
end

section
/-! PROOFS. Exceptions (47_system.md R481, R482, R488, R489; 60_exceptions.md R503 to R509): what SWI, TRAP, WAI, STOP and an
interrupt at a boundary stack and enter. -/

namespace Sys2Proof.Machine

/-- An instruction that takes an exception stacks the frame and enters the handler (60_exceptions.md R506, R508). -/
theorem storesInto_exceptionEntry {i : Instr} {s : State} {vector ret : Word} {setX : Bool}
    (hexec : exec i s = .next (s.exceptionEntry vector ret setX)) :
    StoresInto i s (s.vectored vector setX) (s.sp - 9) (s.frameBytes ret) :=
  ⟨_, hexec, exceptionEntry_stores s vector ret setX⟩

/-- An instruction that stacks the frame and leaves RUNNING, with no vector (47_system.md R488, R489). -/
theorem storesInto_stackFrame {i : Instr} {s : State} {ret : Word} {r : RunState}
    (hexec : exec i s = .next { s.stackFrame ret with run := r }) :
    StoresInto i s { s with sp := s.sp - 9, run := r } (s.sp - 9) (s.frameBytes ret) := by
  refine ⟨_, hexec, ?same, (State.stackFrame_stored s ret).congr rfl rfl rfl rfl rfl rfl rfl rfl rfl rfl⟩
  case same => simp

theorem execStop_null {s : State} (h : s.ccr.s = true) : exec .stop s = .next { s with pc := s.pc + 2 } :=
  if_pos h

theorem execStop_stops {s : State} (h : s.ccr.s = false) :
    exec .stop s = .next { s.stackFrame (s.pc + 2) with run := .stopped } :=
  if_neg (Bool.eq_false_iff.1 h)

/-- Settles O53: SWI and TRAP take an exception, WAI and STOP stack the frame alone. -/
theorem softwareExceptionsAndWaits : Obligations.SoftwareExceptionsAndWaits := by
  refine ⟨fun s => ⟨storesInto_exceptionEntry rfl, rfl, fun tn => ⟨storesInto_exceptionEntry rfl, rfl⟩⟩,
    fun s => ⟨storesInto_stackFrame rfl, rfl, fun hs => storesInto_stackFrame (execStop_stops hs), fun hs => ?null, rfl⟩⟩
  case null => exact .of (execStop_null hs) rfl rfl rfl

/-- Settles O54: the boundary takes the pending request as an exception whose return address is the PC. -/
theorem interruptsAreTakenAtTheBoundary : Obligations.InterruptsAreTakenAtTheBoundary := by
  intro s r hrun hq htag hpend base
  have hb : boundary s.popInput s.input = some (s.popInput.exceptionEntry r.vector s.pc r.isXirq) := by
    have hpend' : s.popInput.interruptPending s.input = some r := hpend
    rw [boundary_running (s := s.popInput) hrun hq.1 htag, hpend']
    rfl
  exact ⟨_, step_of_boundary hq hb, exceptionEntry_stores s.popInput r.vector s.pc r.isXirq⟩

end Sys2Proof.Machine
end

section
/-! PROOFS. What ends WAIT and STOPPED (60_exceptions.md R520, R521; 92_eei_decisions.md D19). -/

namespace Sys2Proof.Machine

/-- The wake-up is the entry of a handler without the frame (60_exceptions.md R520). -/
theorem wake_popInput (s : State) (r : Request) :
    s.popInput.wake r = { s.vectored r.vector r.isXirq with sp := s.sp, inputs := s.inputs.tail } := rfl

theorem step_of_wait {s : State} (hrun : s.run = .wait) (hq : s.input.NoReset) :
    step s = .next (s.elapse (waitStep s.popInput s.input)) :=
  step_of_boundary hq (by simp [boundary, hq.1, hrun])

theorem step_of_stopped {s : State} (hrun : s.run = .stopped) (hq : s.input.NoReset) :
    step s = .next (s.elapse (stoppedStep s.popInput s.input)) :=
  step_of_boundary hq (by simp [boundary, hq.1, hrun])

theorem waitStep_of_pending {s : State} {q : Inputs} {r : Request} (h : s.interruptPending q = some r) :
    waitStep s q = s.wake r := by simp only [waitStep, h]

theorem waitStep_of_none {s : State} {q : Inputs} (h : s.interruptPending q = none) : waitStep s q = s := by
  simp only [waitStep, h]

/-- The sample as the clock logic of STOP sees it: the requests of the sources that STOP_WAKE lists (60_exceptions.md
R521). -/
def Inputs.waking (q : Inputs) (stopWake : List Nat) : Inputs := { q with irq := q.irq.filter (stopWake.contains ·) }

theorem mem_waking_irq {q : Inputs} {l : List Nat} {k : Nat} : k ∈ (q.waking l).irq ↔ k ∈ q.irq ∧ k ∈ l := by
  simp [Inputs.waking]

/-- The sources that can end STOP are the requests of that sample. -/
theorem irqRequests_waking (s : State) (q : Inputs) :
    ((s.irqRequests q).filter fun n => s.dev.stopWake.contains n.number) =
      s.irqRequests (q.waking s.dev.stopWake) := by
  simp only [State.irqRequests, List.filter_filter]
  congr 1
  funext n
  rw [Bool.eq_iff_iff]
  simp [mem_waking_irq, and_comm]

/-- With no XIRQ and I clear, the selected one of the sources that can end STOP does (60_exceptions.md R510, R521). -/
theorem stoppedStep_of_no_xirq {s : State} {q : Inputs} (hx : q.xirq = false) (hi : s.ccr.i = false) :
    stoppedStep s q = match selectIrq s.dev.promoted (s.irqRequests (q.waking s.dev.stopWake)) with
      | some n => s.wake ⟨n.address, false⟩
      | none => s := by
  rw [← irqRequests_waking, stoppedStep, hx, hi]
  rfl

theorem stoppedStep_of_selects {s : State} {q : Inputs} {n : IrqSource} (hx : q.xirq = false) (hi : s.ccr.i = false)
    (hn : s.dev.Selects (fun k => k ∈ q.irq ∧ k ∈ s.dev.stopWake) n) :
    stoppedStep s q = s.wake ⟨BitVec.ofNat 16 (0xFF00 + 2 * n.vector.val), false⟩ := by
  have hn' : s.dev.Selects (· ∈ (q.waking s.dev.stopWake).irq) n := by simpa only [mem_waking_irq] using hn
  obtain ⟨k, hsel, hvec⟩ := selectIrq_of_selects hn'
  rw [stoppedStep_of_no_xirq hx hi, hsel, ← hvec]
  rfl

theorem stoppedStep_of_no_source {s : State} {q : Inputs} (hx : q.xirq = false)
    (h : s.ccr.i = true ∨ ∀ n ∈ s.dev.irqSources, n.number ∈ q.irq → n.number ∉ s.dev.stopWake) :
    stoppedStep s q = s := by
  cases hi : s.ccr.i with
  | true => simp [stoppedStep, hx, hi]
  | false =>
    have hno : ∀ n ∈ s.dev.irqSources, n.number ∈ q.irq → n.number ∉ s.dev.stopWake := h.resolve_left (by simp [hi])
    have hnil : s.irqRequests (q.waking s.dev.stopWake) = [] := by
      refine List.eq_nil_iff_forall_not_mem.2 fun n hn => ?_
      obtain ⟨hdev, hreq⟩ := mem_irqRequests.1 hn
      obtain ⟨hirq, hwake⟩ := mem_waking_irq.1 hreq
      exact hno n hdev hirq hwake
    rw [stoppedStep_of_no_xirq hx hi, hnil]
    rfl

/-- An XIRQ that X lets through enters its handler (60_exceptions.md R521). -/
theorem stoppedStep_of_xirq {s : State} {q : Inputs} (hx : q.xirq = true) (hX : s.ccr.x = false) :
    stoppedStep s q = s.wake ⟨0xFFF4, true⟩ := by simp [stoppedStep, hx, hX]

/-- An XIRQ that X masks drops the frame (60_exceptions.md R521). -/
theorem stoppedStep_of_masked_xirq {s : State} {q : Inputs} (hx : q.xirq = true) (hX : s.ccr.x = true) :
    stoppedStep s q = s.continueAfterStop := by simp [stoppedStep, hx, hX]

/-- Settles O59: the step is that of WAIT or of STOPPED, by what the sample requests. -/
theorem leavingWaitAndStop : Obligations.LeavingWaitAndStop := by
  refine ⟨fun s hrun hq => ?wait, fun s hrun hq => ?stopped⟩
  case wait =>
    rw [step_of_wait hrun hq]
    refine ⟨fun r hr => ?_, fun hr => ?_⟩
    · rw [waitStep_of_pending (s := s.popInput) hr, wake_popInput]
    · rw [waitStep_of_none (s := s.popInput) hr]
      rfl
  case stopped =>
    rw [step_of_stopped hrun hq]
    refine ⟨fun hx hX => ?handler, fun hx hX => ?goOn, fun hx hi n hn => ?source, fun hx h => ?stay⟩
    case handler => rw [stoppedStep_of_xirq (s := s.popInput) hx hX, wake_popInput]
    case goOn =>
      rw [stoppedStep_of_masked_xirq (s := s.popInput) hx hX]
      rfl
    case source => rw [stoppedStep_of_selects (s := s.popInput) hx hi hn, wake_popInput]
    case stay =>
      rw [stoppedStep_of_no_source (s := s.popInput) hx h]
      rfl

end Sys2Proof.Machine
end

section
/-! PROOFS. RTI (47_system.md R483, R484), and RTI after SWI (47_system.md R481, 60_exceptions.md R508). -/

namespace Sys2Proof.Machine

/-! ### RTI -/

/-- The state after RTI has read CCR, B, A and X, the bytes of the frame below Y (47_system.md R483). -/
def State.frameRead (s : State) : State := ((s.touch s.sp).touchWord (s.sp + 1)).touchWord (s.sp + 3)

/-- The state after RTI has pulled the registers of the frame, the return address read before Y; SP and the PC are not yet
moved (47_system.md R483). -/
def State.framePulled (s : State) : State :=
  { (s.frameRead.touchWord (s.sp + 7)).touchWord (s.sp + 5) with
    ccr := s.ccr.fromData (s.readByte s.sp), b := (s.touch s.sp).readByte (s.sp + 1)
    a := ((s.touch s.sp).touch (s.sp + 1)).readByte (s.sp + 2)
    x := ((s.touch s.sp).touchWord (s.sp + 1)).readWord (s.sp + 3)
    y := (s.frameRead.touchWord (s.sp + 7)).readWord (s.sp + 5) }

/-- What RTI does once the registers are pulled and SP is past the frame (47_system.md R484). -/
def State.resumed (z : State) (ret : Word) : State :=
  match z.interruptPending z.input with
  | some r => { z.touchWord r.vector with pc := z.readWord r.vector, sp := z.sp - 9, ccr := z.ccr.mask r.isXirq }
  | none => { z with pc := ret }

theorem resumed_of_none {z : State} (h : z.interruptPending z.input = none) (sp ret : Word) :
    { z with sp := sp }.resumed ret = { z with sp := sp, pc := ret } := by
  have hpend : { z with sp := sp }.interruptPending { z with sp := sp }.input = none := h
  rw [State.resumed, hpend]

theorem resumed_of_pending {z : State} {r : Request} (h : z.interruptPending z.input = some r) {sp : Word}
    (hsp : z.sp = sp) (ret : Word) : { z with sp := sp + 9 }.resumed ret =
      { z.touchWord r.vector with ccr := z.ccr.mask r.isXirq, pc := z.readWord r.vector } := by
  have hpend : { z with sp := sp + 9 }.interruptPending { z with sp := sp + 9 }.input = some r := h
  rw [State.resumed, hpend]
  dsimp only
  rw [BitVec.add_sub_cancel, ← hsp]
  rfl

/-- The registers that RTI pulls play no part in its later reads. -/
theorem readWord_with_pulled (s : State) (c : Ccr) (b a : Byte) (x y p : Word) :
    { s with ccr := c, b := b, a := a, x := x, y := y }.readWord p = s.readWord p := rfl

theorem touchWord_with_pulled (s : State) (c : Ccr) (b a : Byte) (x y p : Word) :
    { s with ccr := c, b := b, a := a, x := x, y := y }.touchWord p =
      { s.touchWord p with ccr := c, b := b, a := a, x := x, y := y } := rfl

/-- The word at SP + 1, byte by byte: B, then A (60_exceptions.md R508). -/
theorem readWord_frame_ba (s : State) : hiByte (s.readWord (s.sp + 1)) = s.readByte (s.sp + 1) ∧
    loByte (s.readWord (s.sp + 1)) = (s.touch (s.sp + 1)).readByte (s.sp + 2) := by
  have hsp : s.sp + 2 = s.sp + 1 + 1 := by bv_omega
  rw [hsp]
  exact ⟨hiByte_word _ _, loByte_word _ _⟩

theorem returnFromInterrupt_eq (s : State) : s.returnFromInterrupt =
    { s.framePulled with sp := s.sp + 9 }.resumed (s.frameRead.readWord (s.sp + 7)) := by
  obtain ⟨hb, ha⟩ := readWord_frame_ba (s.touch s.sp)
  simp only [State.touch_sp] at hb ha
  unfold State.returnFromInterrupt State.writeCcr State.resumed State.framePulled State.frameRead
  -- Built as a module, the two sides keep a matcher each, which `rfl` identifies.
  simp only [Ccr.write_eq, State.touch_ccr, readWord_with_pulled, touchWord_with_pulled, hb, ha] <;> rfl

theorem framePulled_frame (s : State) : s.framePulled.ppage = s.ppage ∧ s.framePulled.dev = s.dev ∧
    s.framePulled.mem = s.mem ∧ s.framePulled.inputs = s.inputs ∧ s.framePulled.sp = s.sp := by
  simp [State.framePulled, State.frameRead]

/-- RTI with no request that the restored masks enable goes on at the return address (47_system.md R483). -/
theorem exec_rti_of_none {s : State} (h : s.framePulled.interruptPending s.input = none) : exec .rti s =
    .next { s.framePulled with sp := s.sp + 9, pc := s.frameRead.readWord (s.sp + 7) } := by
  obtain ⟨-, -, -, hinputs, -⟩ := framePulled_frame s
  rw [State.input, ← hinputs] at h
  have hexec : exec .rti s = .next s.returnFromInterrupt := rfl
  rw [hexec, returnFromInterrupt_eq, resumed_of_none h]

/-- RTI with such a request enters its handler, SP being at the frame again (47_system.md R484). -/
theorem exec_rti_of_pending {s : State} {r : Request} (h : s.framePulled.interruptPending s.input = some r) :
    exec .rti s = .next { s.framePulled.touchWord r.vector with
      ccr := s.framePulled.ccr.mask r.isXirq, pc := s.framePulled.readWord r.vector } := by
  obtain ⟨-, -, -, hinputs, hsp⟩ := framePulled_frame s
  rw [State.input, ← hinputs] at h
  have hexec : exec .rti s = .next s.returnFromInterrupt := rfl
  rw [hexec, returnFromInterrupt_eq, resumed_of_pending h hsp]

/-- Settles O57: RTI is `exec_rti_of_none` or `exec_rti_of_pending`, and writes no memory. -/
theorem returnFromInterruptRestores : Obligations.ReturnFromInterruptRestores := by
  intro s s1 s2 s3 s4 u
  have hu : u = s.framePulled := rfl
  have hret : s3.readWord (s.sp + 7) = s.frameRead.readWord (s.sp + 7) := rfl
  clear_value u
  rw [hret]
  obtain ⟨hppage, hdev, hmem, -, -⟩ := framePulled_frame s
  rw [← hu] at hppage hdev hmem
  refine ⟨fun h => .of ?none hppage hdev hmem, fun r h => .of ?pending hppage hdev hmem, rfl⟩
  case none => rw [hu] at h ⊢; exact exec_rti_of_none h
  case pending => rw [hu] at h ⊢; exact exec_rti_of_pending h

/-! ### RTI after SWI -/

/-- A CCR written with another one's byte becomes that one, where X need not be set (10_state.md R27). -/
theorem Ccr.fromData_nat_of_x {c d : Ccr} (hx : d.x = true → c.x = true) : c.fromData (BitVec.ofNat 8 d.nat) = d := by
  have hbit : d.toByte.getLsbD 6 = d.x := congrArg Ccr.x (ofByte_toByte d)
  have hand : (c.x && d.x) = d.x := Bool.and_eq_right_iff_imp.2 hx
  rw [← Ccr.write_eq, ← ccr_toByte_eq, Ccr.write, ofByte_toByte, hbit, hand]

theorem word_wordBE (w : Word) : word (BitVec.ofNat 8 (w.toNat / 256)) (BitVec.ofNat 8 w.toNat) = w := by
  rw [← hiByte_eq, ← loByte_eq, word_hiByte_loByte]

/-- A word with no device register in it is its two bytes (20_memory.md R62). -/
theorem readWord_of_notRegister {s : State} {a : Word} (h : s.NotRegister a) :
    s.readWord a = word (s.readByte a) (s.readByte (a + 1)) := by
  rw [State.readWord, State.touch_eq h]

/-- The nine bytes at SP are the frame that `s` stacked with the return address `ret`, and no device register is among
them. -/
def State.HoldsFrame (t s : State) (ret : Word) : Prop :=
  ∀ k v, (s.frameBytes ret)[k]? = some v →
    t.NotRegister (t.sp + BitVec.ofNat 16 k) ∧ t.readByte (t.sp + BitVec.ofNat 16 k) = v

/-- A word of the frame. -/
theorem State.HoldsFrame.word {s t : State} {ret : Word} (h : t.HoldsFrame s ret) {k : Nat} {w : Word} {a : Word}
    (ha : a = t.sp + BitVec.ofNat 16 k)
    (hhi : (s.frameBytes ret)[k]? = some (BitVec.ofNat 8 (w.toNat / 256)))
    (hlo : (s.frameBytes ret)[k + 1]? = some (BitVec.ofNat 8 w.toNat)) :
    t.touchWord a = t ∧ t.readWord a = w := by
  obtain ⟨hreg, hread⟩ := h _ _ hhi
  obtain ⟨hreg', hread'⟩ := h _ _ hlo
  have hnext : a + 1 = t.sp + BitVec.ofNat 16 (k + 1) := by
    rw [ha, BitVec.ofNat_add, BitVec.add_assoc]
    rfl
  rw [← hnext] at hreg' hread'
  rw [← ha] at hreg hread
  exact ⟨State.touchWord_eq hreg hreg', by rw [readWord_of_notRegister hreg, hread, hread', word_wordBE]⟩

/-- RTI pulls from such a stack the registers that were stacked (47_system.md R483, 60_exceptions.md R508). -/
theorem State.HoldsFrame.pulled {s t : State} {ret : Word} (h : t.HoldsFrame s ret) :
    t.framePulled = { t with
      ccr := t.ccr.fromData (BitVec.ofNat 8 s.ccr.nat), b := s.b, a := s.a, x := s.x, y := s.y } ∧
    t.frameRead.readWord (t.sp + 7) = ret := by
  obtain ⟨hreg0, hccr⟩ : t.NotRegister t.sp ∧ t.readByte t.sp = BitVec.ofNat 8 s.ccr.nat := by simpa using h 0 _ rfl
  obtain ⟨hreg1, hb⟩ : t.NotRegister (t.sp + 1) ∧ t.readByte (t.sp + 1) = s.b := h 1 _ rfl
  obtain ⟨hreg2, ha⟩ : t.NotRegister (t.sp + 2) ∧ t.readByte (t.sp + 2) = s.a := h 2 _ rfl
  obtain ⟨htx, hx⟩ : t.touchWord (t.sp + 3) = t ∧ t.readWord (t.sp + 3) = s.x := h.word (k := 3) rfl rfl rfl
  obtain ⟨hty, hy⟩ : t.touchWord (t.sp + 5) = t ∧ t.readWord (t.sp + 5) = s.y := h.word (k := 5) rfl rfl rfl
  obtain ⟨htr, hr⟩ : t.touchWord (t.sp + 7) = t ∧ t.readWord (t.sp + 7) = ret := h.word (k := 7) rfl rfl rfl
  have htba : t.touchWord (t.sp + 1) = t := by
    have hsp : t.sp + 2 = t.sp + 1 + 1 := by bv_omega
    exact State.touchWord_eq hreg1 (hsp ▸ hreg2)
  have hread : t.frameRead = t := by rw [State.frameRead, State.touch_eq hreg0, htba, htx]
  refine ⟨?pulled, by rw [hread, hr]⟩
  rw [State.framePulled, hread, State.touch_eq hreg0, State.touch_eq hreg1, htba, htr, hty, hccr, hb, ha, hx, hy]

/-- What an exception leaves, where its stack is plain storage: nothing but memory, the devices and what entering a handler
writes has changed, and the frame is at SP (60_exceptions.md R506, R508). -/
theorem exceptionEntry_leaves {s t : State} {vector ret : Word} {setX : Bool} (ht : s.exceptionEntry vector ret setX = t)
    (hi : s.Inv) (hs : ∀ k, k < 9 → s.Stores (s.sp - 9 + BitVec.ofNat 16 k)) (hapart : s.Apart (s.sp - 9) 9) :
    t = { s.entered (s.readWord vector) setX with mem := t.mem, devices := t.devices } ∧ t.HoldsFrame s ret := by
  obtain ⟨hsame, hstored⟩ : SameButMemory (s.vectored vector setX) t ∧
      BytesStored (s.vectored vector setX) t (s.sp - 9) (s.frameBytes ret) := ht ▸ exceptionEntry_stores s vector ret setX
  obtain ⟨hppage, hlimit, -, -, -⟩ := hstored hi fun k hk => (hs k hk).1
  have hleft : t = { s.entered (s.readWord vector) setX with mem := t.mem, devices := t.devices } := by
    refine hsame.trans ?_
    rw [hppage, hlimit, ← hi.2]
    rfl
  refine ⟨hleft, fun k v hv => ?frame⟩
  case frame =>
    have hk : k < 9 := (List.getElem?_eq_some_iff.1 hv).1
    have hsp : t.sp = s.sp - 9 := by rw [hleft]; rfl
    have hreg : t.NotRegister (s.sp - 9 + BitVec.ofNat 16 k) := by
      rw [hleft]
      exact stores_notRegister (hs k hk)
    rw [hsp]
    exact ⟨hreg, hstored.readByte_eq hi hs hapart hv⟩

/-- Settles O58: the stack that RTI reads holds the frame that SWI left there, whatever became of the registers. -/
theorem swiThenRtiRestores : Obligations.SwiThenRtiRestores := by
  intro s t a b x y c hi hs hapart hxirq hirq ht hx
  have hentry : s.exceptionEntry 0xFFF6 (s.npc 1) false = t := Host.Outcome.next.inj ht
  obtain ⟨hleft, hframe⟩ := exceptionEntry_leaves hentry hi hs hapart
  have hframe' : { t with a := a, b := b, x := x, y := y, ccr := c }.HoldsFrame s (s.npc 1) := hframe
  obtain ⟨hpulled, hret⟩ := hframe'.pulled
  rw [Ccr.fromData_nat_of_x hx] at hpulled
  have hpend : ({ t with a := a, b := b, x := x, y := y, ccr := c } : State).framePulled.interruptPending t.input = none := by
    rw [hpulled]
    refine (requestSelection _ _).2.1 (.inl ?_) (.inr (.inr ?_)) <;> rw [hleft]
    · exact hxirq
    · exact hirq
  have hsp : t.sp + 9 = s.sp := by
    rw [hleft]
    exact BitVec.sub_add_cancel ..
  rw [exec_rti_of_none hpend, hret, hpulled]
  dsimp only
  rw [hsp, hleft]
  rfl

end Sys2Proof.Machine
end
